-- ==== Sys2Proof/Word.lean ====
section
/-! DEFINITION. The word types of the OFD (spec/30_encoding.md R64, spec/20_memory.md R52). -/

namespace Sys2Proof

/-- An operation word, and a register value: 32 bits (R64, R31). -/
abbrev Word := BitVec 32

/-- An 8-bit channel value, intensity or output byte (R52, R66, R112). -/
abbrev Byte := BitVec 8

/-- A 16-bit region coordinate, frame dimension or CFGWR operand (R51, R66, R75). -/
abbrev Half := BitVec 16

end Sys2Proof
end

