-- ==== Sys2Proof/Config.lean ====
section
/-! DEFINITION. What is fixed for one OFD: the constants of spec/00_scope.md R8, the power-on values of
spec/10_state.md R15 and R47, and the draw oracle, the one value the spec leaves open to a generator. -/

namespace Sys2Proof

/-- A region `(x0, x1, y0, y1)` with half-open ranges (R75). -/
structure Region where
  x0 : Half
  x1 : Half
  y0 : Half
  y1 : Half
  deriving DecidableEq, Repr

/-- A pixel coordinate: column `x`, row `y` (R53). -/
structure Coord where
  x : Nat
  y : Nat
  deriving DecidableEq, Repr, Inhabited

/-- `region_id` of R77: which of the two regions is being sampled. -/
inductive RegionId
  | sig
  | clk
  deriving DecidableEq, Repr

/-- What the draw oracle is asked with: `ctx = (n, region_id, k)` of R77. `powerCycle` numbers the
power-ons, since `n` counts from the last one (log 7), and `region` is the region the answer must lie in
(log 4). -/
structure DrawContext where
  powerCycle : Nat
  position   : Nat
  regionId   : RegionId
  k          : Nat
  region     : Region
  deriving DecidableEq, Repr

/-- DESIGN CHOICE (log 4), safe: the draw oracle of R77 as a free value. It has no body, so nothing can be
proved of what it answers; `Sys2Proof.Machine.foldIntoRegion` brings the answer into the region. -/
opaque Config.draw : DrawContext → Coord

/-- The largest legal smoother and debouncer length, LMAX and DMAX (R8, R35). -/
def Config.maxWindow : Nat := 15

/-- Bits per assembled byte (R8). -/
def Config.bitsPerByte : Nat := 8

/-- The ID register's constant (R47). -/
def Config.idValue : Word := 0x4F464401#32

/-- The power-on value of LOW (R15). -/
def Config.powerOnLow : Byte := 20#8

/-- The power-on value of HIGH (R15). -/
def Config.powerOnHigh : Byte := 60#8

/-- The power-on value of SMOOTH_LEN (R15). -/
def Config.powerOnSmoothLen : BitVec 4 := 1#4

/-- The power-on value of DEB_LEN (R15). -/
def Config.powerOnDebLen : BitVec 4 := 5#4

/-- The power-on value of NSAMPLES (R15). -/
def Config.powerOnNsamples : Half := 1000#16

/-- The power-on value of all eight region coordinates (R15). -/
def Config.powerOnRegion : Region := ⟨0#16, 0#16, 0#16, 0#16⟩

/-- DESIGN CHOICE (log 1), unsafe: the level of the SRC_AVAILABLE input in `State.reset`. It is an input and
the spec gives it no reset value; spec/95_test_vectors.md L3 takes 1 unless stated. -/
def Config.resetSrcAvailable : Bool := true

end Sys2Proof
end

