-- ==== Sys2Proof/Syntax.lean ====
section
/-! DEFINITION. The operations of the OFD operation set, revision 1: one constructor per row of
spec/opcode_table.json (spec/30_encoding.md R66, R69), and the types of their operands. -/

namespace Sys2Proof

/-- The four symbols (R68). -/
inductive Symbol
  | neither
  | signal
  | clock
  | both
  deriving DecidableEq, Repr

/-- A derivative unit, the operand `U` of DERIV (R66, R96). -/
inductive DerivUnit
  | d0
  | d1
  deriving DecidableEq, Repr

/-- The operations (R69). Operands stand in the order of the assembly lines of R73. -/
inductive Instr
  /-- NOP (R125). -/
  | nop
  /-- START (R126). -/
  | start
  /-- FRAME (R121); the frame travels on the frame port. -/
  | frame
  /-- END (R127). -/
  | endStream
  /-- STOP (R128). -/
  | stop
  /-- INJECT s, c (R122). -/
  | inject (s c : Byte)
  /-- SYMBOL sym (R102). -/
  | symbol (sym : Symbol)
  /-- EDGE sig, clk (R109). -/
  | edge (sig clk : Bool)
  /-- BIT b (R118). -/
  | bit (b : Bool)
  /-- DERIV u, v (R96). -/
  | deriv (u : DerivUnit) (v : Byte)
  /-- CFGWR idx, data (R129). -/
  | cfgwr (idx : BitVec 4) (data : Half)
  /-- CLRERR mask (R130). -/
  | clrerr (mask : BitVec 6)
  deriving DecidableEq, Repr

end Sys2Proof
end

