-- ==== Sys2Proof/Machine/State.lean ====
section
/-! DEFINITION. The state of the OFD as plain data: every field of spec/10_state.md, what its collaborators
hold for a step (R12), the power-on state (R48), and the reasons a step can stop. -/

namespace Sys2Proof.Machine

/-! ## Frames (spec/20_memory.md) -/

/-- Bytes by address in one canonical form: addresses strictly rising, and no cell equal to what an unlisted
address reads as (log 6). It holds the pixel bytes of one frame. -/
abbrev Memory := List Host.Cell

/-- A frame on the frame port (R51): its width, its height and the bytes of its pixels, the cell of channel
`c` of the pixel `(x, y)` at `Sys2Proof.Machine.pixelAddr x y c`. -/
structure Frame where
  width  : Half
  height : Half
  pixels : Memory
  deriving DecidableEq, Repr

/-- Three 8-bit channels: channel 0 red, 1 green, 2 blue (R52). -/
structure Pixel where
  ch0 : Byte
  ch1 : Byte
  ch2 : Byte
  deriving DecidableEq, Repr

/-- The three channel indices (R15, R52); R33 refuses the code 3. -/
inductive Channel
  | red
  | green
  | blue
  deriving DecidableEq, Repr

/-! ## The operation port -/

/-- What arrives with one operation (R12, R51): its word, the frame on the frame port, and answers of the draw
oracle that the environment pins, the answer to draw `k` at position `k`. A draw with no pinned answer is
answered by `Config.draw` (log 5). -/
structure Operation where
  word     : Word
  frame    : Frame
  sigDraws : List Coord
  clkDraws : List Coord
  deriving DecidableEq, Repr

/-- One input of the OFD, in the order they arrive (log 2). -/
inductive PortEvent
  /-- The host presents an operation on the operation port (R14). -/
  | op (o : Operation)
  /-- The frame source drives SRC_AVAILABLE (R134). -/
  | source (available : Bool)
  /-- RESET is asserted (R150). -/
  | reset
  deriving DecidableEq, Repr

/-- An event of the byte sink (R115). -/
inductive SinkEvent
  | byte (b : Byte)
  | eos
  deriving DecidableEq, Repr

/-! ## Configuration, session and error state -/

/-- The configuration fields (R15). -/
structure Configuration where
  sigRegion : Region
  clkRegion : Region
  sigCh     : Channel
  clkCh     : Channel
  low       : Byte
  high      : Byte
  smoothLen : BitVec 4
  debLen    : BitVec 4
  nsamples  : Half
  deriving DecidableEq, Repr

/-- SAMPLE_SIG or SAMPLE_CLK: a ColorSample and its valid bit (R17). -/
structure SampleField where
  color : Pixel
  valid : Bool
  deriving DecidableEq, Repr

/-- A derivative unit (R25); `diff` is 9-bit two's complement. -/
structure DerivState where
  prev    : Byte
  hasPrev : Bool
  diff    : BitVec 9
  valid   : Bool
  deriving DecidableEq, Repr

/-- The session and datapath fields of R17 to R25; the lists are oldest first. -/
structure Session where
  sampleSig     : SampleField
  sampleClk     : SampleField
  qs            : List Byte
  qc            : List Byte
  rawSym        : Symbol
  rawValid      : Bool
  debSym        : Symbol
  debValid      : Bool
  win           : List Symbol
  prevClock     : Bool
  lastBit       : Bool
  lastBitValid  : Bool
  pend          : List Bool
  lastByte      : Byte
  lastByteValid : Bool
  d0            : DerivState
  d1            : DerivState
  deriving DecidableEq, Repr

/-- The machine. `cfg` to `errWord` are OFD state (R15 to R26). `srcAvailable`, `sink` and `port` are what the
collaborators hold (R12). `position` and `powerCycle` are the model's bookkeeping for the draw oracle (R77,
log 7). -/
structure State where
  cfg          : Configuration
  active       : Bool
  ses          : Session
  err          : BitVec 6
  errInfo      : BitVec 4
  errWord      : Word
  srcAvailable : Bool
  sink         : List SinkEvent
  port         : List PortEvent
  position     : Nat
  powerCycle   : Nat
  deriving DecidableEq, Repr

/-! ## Reset values -/

/-- The power-on configuration (R15). -/
def Configuration.powerOn : Configuration where
  sigRegion := Config.powerOnRegion
  clkRegion := Config.powerOnRegion
  sigCh := .green
  clkCh := .red
  low := Config.powerOnLow
  high := Config.powerOnHigh
  smoothLen := Config.powerOnSmoothLen
  debLen := Config.powerOnDebLen
  nsamples := Config.powerOnNsamples

/-- A sample field after session initialisation (R49). -/
def SampleField.initial : SampleField := ⟨⟨0#8, 0#8, 0#8⟩, false⟩

/-- A derivative unit after session initialisation (R49). -/
def DerivState.initial : DerivState := ⟨0#8, false, 0#9, false⟩

/-- Every session field as `SessionInit()` writes it (R49). -/
def Session.initial : Session where
  sampleSig := SampleField.initial
  sampleClk := SampleField.initial
  qs := []
  qc := []
  rawSym := .neither
  rawValid := false
  debSym := .neither
  debValid := false
  win := []
  prevClock := false
  lastBit := false
  lastBitValid := false
  pend := []
  lastByte := 0#8
  lastByteValid := false
  d0 := DerivState.initial
  d1 := DerivState.initial

/-- The machine after power-on reset (R48), with nothing on the port and an empty sink history. The level of
SRC_AVAILABLE, an input, is the one log 1 names. -/
def State.reset : State where
  cfg := Configuration.powerOn
  active := false
  ses := Session.initial
  err := 0#6
  errInfo := 0#4
  errWord := 0#32
  srcAvailable := Config.resetSrcAvailable
  sink := []
  port := []
  position := 0
  powerCycle := 0

/-! ## Stops -/

/-- Why a step faults. The OFD's own errors are not faults: they are recorded and the OFD goes on (R132). -/
inductive Fault
  /-- Raised by the sampler on a pixel read outside the frame, which R53 leaves undefined. Safe: the sampler's
  checks come first (R76, R77), so no operation reaches it. -/
  | pixelOutsideFrame
  deriving DecidableEq, Repr

/-- Why a step is refused. -/
inductive Refusal
  /-- Raised by an arm of `exec` for an instruction with no meaning yet; no arm uses it. Safe. -/
  | notModelled (mnemonic : String)
  /-- Raised by FRAME when a pinned oracle answer lies outside the region: "A model refuses an oracle answer
  outside the region" (R53). Safe: R77 admits no such answer. -/
  | oracleOutsideRegion
  deriving DecidableEq, Repr

end Sys2Proof.Machine
end

