-- ==== Sys2Proof/Machine/Operands.lean ====
section
/-! DEFINITION. Operand forms: the fields inside CFGWR's DATA with their legal values (spec/10_state.md R32 to
R36), and the channel selection of a pixel (R33). -/

namespace Sys2Proof.Machine

/-- The channel of a 2-bit index; 3 is illegal (R33). -/
def Channel.ofCode (c : BitVec 2) : Option Channel :=
  match c.toNat with
  | 0 => some .red
  | 1 => some .green
  | 2 => some .blue
  | _ => none

/-- The 2-bit index of a channel (R52). -/
def Channel.code : Channel → BitVec 2
  | .red => 0#2
  | .green => 1#2
  | .blue => 2#2

/-- `p[ch]`: one channel of a pixel or ColorSample (R52, R121). -/
def Pixel.lane (p : Pixel) : Channel → Byte
  | .red => p.ch0
  | .green => p.ch1
  | .blue => p.ch2

/-- CHAN's operand: `(SIG_CH, CLK_CH)`, or none where R33 makes it BAD_CONFIG. -/
def chanOperand (data : Half) : Option (Channel × Channel) :=
  if data.extractLsb' 4 12 ≠ 0#12 then none
  else
    match Channel.ofCode (data.extractLsb' 0 2), Channel.ofCode (data.extractLsb' 2 2) with
    | some sig, some clk => some (sig, clk)
    | _, _ => none

/-- THRESH's operand: `(LOW, HIGH)`; every value is legal (R34). -/
def threshOperand (data : Half) : Byte × Byte := (data.extractLsb' 0 8, data.extractLsb' 8 8)

/-- LENS's operand: `(SMOOTH_LEN, DEB_LEN)`, or none where R35 makes it BAD_CONFIG. -/
def lensOperand (data : Half) : Option (BitVec 4 × BitVec 4) :=
  if data.extractLsb' 8 8 ≠ 0#8 ∨ data.extractLsb' 0 4 = 0#4 ∨ data.extractLsb' 4 4 = 0#4 then none
  else some (data.extractLsb' 0 4, data.extractLsb' 4 4)

/-- NSAMPLES's operand, or none where R36 makes it BAD_CONFIG. -/
def nsamplesOperand (data : Half) : Option Half := if data = 0#16 then none else some data

end Sys2Proof.Machine
end

