-- ==== Sys2Proof/Machine/Flags.lean ====
section
/-! DEFINITION. The error kinds of spec/60_exceptions.md R131 and the sticky `ERR` flags. The OFD has no
condition codes: these are its only flags (spec/10_state.md R27). -/

namespace Sys2Proof.Machine

/-- The six errors (R131). -/
inductive ErrorKind
  | invalidRegion
  | sourceUnavailable
  | illegalOp
  | cfgLocked
  | notActive
  | badConfig
  deriving DecidableEq, Repr

/-- The code an error writes to `ERR_INFO` (R131). -/
def errorCode : ErrorKind → BitVec 4
  | .invalidRegion => 1#4
  | .sourceUnavailable => 2#4
  | .illegalOp => 3#4
  | .cfgLocked => 4#4
  | .notActive => 5#4
  | .badConfig => 6#4

/-- The flag of an error in `ERR` (R131). -/
def errorBit : ErrorKind → Nat
  | .invalidRegion => 0
  | .sourceUnavailable => 1
  | .illegalOp => 2
  | .cfgLocked => 3
  | .notActive => 4
  | .badConfig => 5

/-- `st.ERR[b] <- 1` for the flag of an error (R132). -/
def setErrorFlag (err : BitVec 6) (e : ErrorKind) : BitVec 6 := err ||| (1#6 <<< errorBit e)

/-- `st.ERR and not MASK` (R130). -/
def clearErrorFlags (err mask : BitVec 6) : BitVec 6 := err &&& ~~~mask

end Sys2Proof.Machine
end

