-- ==== Sys2Proof/Machine/Ops.lean ====
section
/-! DEFINITION. The named operations over the state: one update per group of fields, the operation presented on
the port, recording an error (the OFD's only "exception", spec/60_exceptions.md R132), the session gate (R136)
and session initialisation (spec/10_state.md R49). -/

namespace Sys2Proof.Machine

/-- What a step answers. -/
abbrev StepOutcome := Host.Outcome State Fault Refusal

/-! ## Updates -/

/-- Replace the configuration (R15). -/
def State.setCfg (s : State) (c : Configuration) : State := { s with cfg := c }

/-- Write `ACTIVE` (R16). -/
def State.setActive (s : State) (b : Bool) : State := { s with active := b }

/-- Replace the session fields (R17 to R25). -/
def State.setSes (s : State) (x : Session) : State := { s with ses := x }

/-- Write the three error fields (R26). -/
def State.setErrors (s : State) (flags : BitVec 6) (info : BitVec 4) (word : Word) : State :=
  { s with err := flags, errInfo := info, errWord := word }

/-- Write `ERR` alone (R130). -/
def State.setErrFlags (s : State) (flags : BitVec 6) : State := { s with err := flags }

/-- Append an event to the byte sink's history (R115). -/
def State.emit (s : State) (e : SinkEvent) : State := { s with sink := s.sink ++ [e] }

/-- Drive the SRC_AVAILABLE input (R134). -/
def State.setSource (s : State) (b : Bool) : State := { s with srcAvailable := b }

/-- Replace what is still to come on the port. -/
def State.setPort (s : State) (p : List PortEvent) : State := { s with port := p }

/-- The operation at the front of the port is consumed (R62), and the next one has the next position (R121). -/
def State.retire (s : State) : State := { s with port := s.port.tail, position := s.position + 1 }

/-! ## The presented operation -/

/-- What `presented` answers where no operation is presented (log 15). -/
def Operation.absent : Operation := ⟨0#32, ⟨0#16, 0#16, []⟩, [], []⟩

/-- The operation presented on the port: its word, frame and pinned oracle answers (R14, R51). -/
def presented (s : State) : Operation :=
  match s.port with
  | .op o :: _ => o
  | _ => Operation.absent

/-- The frame on the frame port (R51). -/
def currentFrame (s : State) : Frame := (presented s).frame

/-! ## Errors -/

/-- `raise E(w)` of R132, where `w` is the presented word: nothing the operation would have written stands, and
only the three error fields change. There is no vector, no mode change and no return from it (R140, R141):
the next operation executes normally. -/
def raise (e : ErrorKind) (s : State) : State :=
  s.setErrors (setErrorFlag s.err e) (errorCode e) (presented s).word

/-- The gate of the operations that need a session (R136): with `ACTIVE = 0` they raise NOT_ACTIVE. -/
def inSession (s : State) (effect : StepOutcome) : StepOutcome :=
  if s.active then effect else .next (raise .notActive s)

/-! ## Sessions -/

/-- `SessionInit()` (R49): every session field; configuration and error fields stay. -/
def sessionInit (s : State) : State := s.setSes Session.initial

/-- What END and STOP share (R127, R128): the pending bits are dropped and the session ends. -/
def closeSession (s : State) : State := (s.setSes { s.ses with pend := [] }).setActive false

end Sys2Proof.Machine
end

