-- ==== Sys2Proof/WellFormed.lean ====
section
/-! DEFINITION. Which operations are legal as syntax. Every operand type admits exactly the values of its
field (R66), but for CFGWR's index, where 0xC to 0xF are illegal (R71 item 3). -/

namespace Sys2Proof

/-- CFGWR names a configuration register 0x0 to 0xB (R66, R71). -/
def legalIndex (idx : BitVec 4) : Bool := decide (idx.toNat < 12)

/-- A legal operation: one that some word decodes to (R70, R72). -/
def Instr.wellFormed : Instr → Bool
  | .nop => true
  | .start => true
  | .frame => true
  | .endStream => true
  | .stop => true
  | .inject _ _ => true
  | .symbol _ => true
  | .edge _ _ => true
  | .bit _ => true
  | .deriv _ _ => true
  | .cfgwr idx _ => legalIndex idx
  | .clrerr _ => true

end Sys2Proof
end

