-- ==== Sys2Proof/Machine/Control.lean ====
section
/-! DEFINITION. The session, configuration and control operations of spec/47_control_ops.md. -/

namespace Sys2Proof.Machine

/-- NOP (R125). -/
def execNop (s : State) : StepOutcome := .next s

/-- START (R126). -/
def execStart (s : State) : StepOutcome :=
  if s.srcAvailable then .next ((sessionInit s).setActive true)
  else .next (raise .sourceUnavailable s)

/-- END (R127). -/
def execEndStream (s : State) : StepOutcome := inSession s (.next ((closeSession s).emit .eos))

/-- STOP (R128). -/
def execStop (s : State) : StepOutcome := inSession s (.next (closeSession s))

/-- The configuration with one region coordinate register, 0x0 to 0x7, written (R32, R129). -/
def writeCoordinate (c : Configuration) (idx : Nat) (data : Half) : Configuration :=
  match idx with
  | 0x0 => { c with sigRegion := { c.sigRegion with x0 := data } }
  | 0x1 => { c with sigRegion := { c.sigRegion with x1 := data } }
  | 0x2 => { c with sigRegion := { c.sigRegion with y0 := data } }
  | 0x3 => { c with sigRegion := { c.sigRegion with y1 := data } }
  | 0x4 => { c with clkRegion := { c.clkRegion with x0 := data } }
  | 0x5 => { c with clkRegion := { c.clkRegion with x1 := data } }
  | 0x6 => { c with clkRegion := { c.clkRegion with y0 := data } }
  | 0x7 => { c with clkRegion := { c.clkRegion with y1 := data } }
  | _ => c

/-- The configuration that CFGWR stores, or the error it raises, with its tests in the order of R129 and R139.
An index 0xC to 0xF is no operation's (R71): it is ILLEGAL_OP here too (log 14). -/
def configWrite (active : Bool) (c : Configuration) (idx : BitVec 4) (data : Half) :
    Except ErrorKind Configuration :=
  match idx.toNat with
  | 0x8 =>
    match chanOperand data with
    | some (sig, clk) => .ok { c with sigCh := sig, clkCh := clk }
    | none => .error .badConfig
  | 0x9 => .ok { c with low := (threshOperand data).1, high := (threshOperand data).2 }
  | 0xA =>
    if active then .error .cfgLocked
    else
      match lensOperand data with
      | some (smooth, deb) => .ok { c with smoothLen := smooth, debLen := deb }
      | none => .error .badConfig
  | 0xB =>
    match nsamplesOperand data with
    | some n => .ok { c with nsamples := n }
    | none => .error .badConfig
  | n => if n < 8 then .ok (writeCoordinate c n data) else .error .illegalOp

/-- CFGWR (R129). -/
def execCfgwr (idx : BitVec 4) (data : Half) (s : State) : StepOutcome :=
  match configWrite s.active s.cfg idx data with
  | .ok c => .next (s.setCfg c)
  | .error e => .next (raise e s)

/-- CLRERR (R130). -/
def execClrerr (mask : BitVec 6) (s : State) : StepOutcome :=
  .next (s.setErrFlags (clearErrorFlags s.err mask))

end Sys2Proof.Machine
end

