-- ==== Sys2Proof/Machine/Smoother.lean ====
section
/-! DEFINITION. The Temporal Smoother of spec/41_smoother.md, and the bounded window it shares with the
debouncer. -/

namespace Sys2Proof.Machine

/-- Append to a window of length `len`, dropping the oldest if it is now too long (R82, R97). -/
def windowPush {α : Type} (len : Nat) (q : List α) (v : α) : List α :=
  if (q ++ [v]).length > len then (q ++ [v]).tail else q ++ [v]

/-- A smoothed value as its exact pair (R83). -/
structure Smoothed where
  sum : Nat
  cnt : Nat
  deriving DecidableEq, Repr

/-- `SUM` of a smoother window (R18). -/
def windowSum (q : List Byte) : Nat := (q.map BitVec.toNat).sum

/-- The smoothed value of a window (R18, R83). -/
def smoothed (q : List Byte) : Smoothed := ⟨windowSum q, q.length⟩

/-- `SmoothPush(QS, s)` and then `SmoothPush(QC, c)` (R82, R87). -/
def smoothPush (sv cv : Byte) (s : State) : State :=
  s.setSes { s.ses with
    qs := windowPush s.cfg.smoothLen.toNat s.ses.qs sv
    qc := windowPush s.cfg.smoothLen.toNat s.ses.qc cv }

end Sys2Proof.Machine
end

