-- ==== Sys2Proof/Machine/Classifier.lean ====
section
/-! DEFINITION. The State Classifier and the derivative units of spec/42_classifier.md. -/

namespace Sys2Proof.Machine

/-- `Classify((sS, nS), (sC, nC))` with LOW and HIGH, tests in the order of R90. -/
def classify (low high : Byte) (vS vC : Smoothed) : Symbol :=
  if vS.sum < low.toNat * vS.cnt ∧ vC.sum < low.toNat * vC.cnt then .neither
  else if vS.sum > high.toNat * vS.cnt ∧ vC.sum > high.toNat * vC.cnt then .both
  else if vC.sum * vS.cnt > vS.sum * vC.cnt then .clock
  else .signal

/-- One push into a derivative unit (R96): the difference is exact and then kept as 9-bit two's complement. -/
def derivPush (u : DerivState) (v : Byte) : DerivState :=
  if u.hasPrev then ⟨v, true, BitVec.ofInt 9 ((v.toNat : Int) - (u.prev.toNat : Int)), true⟩
  else ⟨v, true, 0#9, false⟩

/-- A push into the unit that `U` selects; the other unit stays (R96). -/
def derivStage (u : DerivUnit) (v : Byte) (s : State) : State :=
  match u with
  | .d0 => s.setSes { s.ses with d0 := derivPush s.ses.d0 v }
  | .d1 => s.setSes { s.ses with d1 := derivPush s.ses.d1 v }

/-- DERIV (R96). -/
def execDeriv (u : DerivUnit) (v : Byte) (s : State) : StepOutcome :=
  inSession s (.next (derivStage u v s))

end Sys2Proof.Machine
end

