-- ==== Sys2Proof/Machine/Debouncer.lean ====
section
/-! DEFINITION. The Debouncer of spec/43_debouncer.md: a plurality vote, ties to the symbol seen last. -/

namespace Sys2Proof.Machine

/-- `count[k]`: how often a symbol stands in the window (R97). -/
def symbolCount (w : List Symbol) (k : Symbol) : Nat := w.count k

/-- `last[k]`: the largest position of a symbol in the window, or -1 (R97). -/
def symbolLast : List Symbol → Symbol → Int
  | [], _ => -1
  | x :: rest, k =>
    if 0 ≤ symbolLast rest k then symbolLast rest k + 1 else if x = k then 0 else -1

/-- `(count[k], last[k])` is greater than `(count[j], last[j])` in lexicographic order (R97). -/
def symbolBeats (w : List Symbol) (k j : Symbol) : Bool :=
  decide (symbolCount w j < symbolCount w k) ||
    (decide (symbolCount w k = symbolCount w j) && decide (symbolLast w j < symbolLast w k))

/-- The better of two symbols, the first where neither is better. -/
def betterSymbol (w : List Symbol) (best k : Symbol) : Symbol := if symbolBeats w k best then k else best

/-- The symbol that maximises `(count, last)` (R97, R98). -/
def plurality (w : List Symbol) : Symbol :=
  [Symbol.signal, Symbol.clock, Symbol.both].foldl (betterSymbol w) Symbol.neither

/-- `DebPush(s)` with the raw and debounced symbol fields it is called with (R97, R102, R120). -/
def debouncePush (r : Symbol) (s : State) : State :=
  s.setSes { s.ses with
    rawSym := r
    rawValid := true
    win := windowPush s.cfg.debLen.toNat s.ses.win r
    debSym := plurality (windowPush s.cfg.debLen.toNat s.ses.win r)
    debValid := true }

end Sys2Proof.Machine
end

