-- ==== Sys2Proof/Machine/Assembler.lean ====
section
/-! DEFINITION. The Byte Assembler of spec/45_byte_assembler.md. -/

namespace Sys2Proof.Machine

/-- `sum over i of p[i] << (len(p) - 1 - i)`: the bits as a number, the first the most significant (R23,
R112). -/
def bitsValue : List Bool → Nat
  | [] => 0
  | b :: rest => b.toNat * 2 ^ rest.length + bitsValue rest

/-- `Convert(p)` of a list of 8 bits (R112). -/
def convert (p : List Bool) : Byte := BitVec.ofNat 8 (bitsValue p)

/-- `AsmPush(b)` (R111). -/
def asmPush (b : Bool) (s : State) : State :=
  if (s.ses.pend ++ [b]).length = Config.bitsPerByte then
    (s.setSes { s.ses with
      pend := [], lastByte := convert (s.ses.pend ++ [b]), lastByteValid := true }).emit
        (.byte (convert (s.ses.pend ++ [b])))
  else s.setSes { s.ses with pend := s.ses.pend ++ [b] }

/-- BIT (R118). -/
def execBit (b : Bool) (s : State) : StepOutcome := inSession s (.next (asmPush b s))

end Sys2Proof.Machine
end

