-- ==== Sys2Proof/Machine/Edge.lean ====
section
/-! DEFINITION. The Clock-Edge Bit Extractor of spec/44_edge_extractor.md. -/

namespace Sys2Proof.Machine

/-- The signal half of a symbol, `code[0]` (R68, R103). -/
def signalHalf : Symbol → Bool
  | .neither => false
  | .signal => true
  | .clock => false
  | .both => true

/-- The clock half of a symbol, `code[1]` (R68, R103). -/
def clockHalf : Symbol → Bool
  | .neither => false
  | .signal => false
  | .clock => true
  | .both => true

/-- The bit that `EdgeStep(sig, clk)` returns, if it emits one (R104). -/
def edgeBit (prevClock sig clk : Bool) : Option Bool := if clk = prevClock then none else some sig

/-- The session fields after `EdgeStep(sig, clk)` (R104). -/
def edgeSession (x : Session) (sig clk : Bool) : Session :=
  match edgeBit x.prevClock sig clk with
  | some b => { x with prevClock := clk, lastBit := b, lastBitValid := true }
  | none => { x with prevClock := clk, lastBitValid := false }

/-- `bit <- EdgeStep(sig, clk); if bit != none: AsmPush(bit)` (R102, R109, R120). -/
def edgeStage (sig clk : Bool) (s : State) : State :=
  match edgeBit s.ses.prevClock sig clk with
  | some b => asmPush b (s.setSes (edgeSession s.ses sig clk))
  | none => s.setSes (edgeSession s.ses sig clk)

/-- EDGE (R109). -/
def execEdge (sig clk : Bool) (s : State) : StepOutcome := inSession s (.next (edgeStage sig clk s))

end Sys2Proof.Machine
end

