-- ==== Sys2Proof/Machine/Memory.lean ====
section
/-! DEFINITION. The frame pixel space of spec/20_memory.md: bytes by address in one canonical form, and the
pixel read. No operation writes a frame (spec/00_scope.md R10); the writes here are the frame source's. -/

namespace Sys2Proof.Machine

/-- What an address with no cell reads as (DESIGN CHOICE, log 6). -/
def Memory.unlisted : Byte := 0#8

/-- The byte at an address. -/
def Memory.read : Memory → Nat → Byte
  | [], _ => Memory.unlisted
  | (a, b) :: rest, k => if a = k then b else Memory.read rest k

/-- Put a byte at an address, keeping the canonical form. -/
def Memory.write : Memory → Nat → Byte → Memory
  | [], k, v => if v = Memory.unlisted then [] else [(k, v)]
  | (a, b) :: rest, k, v =>
    if k < a then (if v = Memory.unlisted then (a, b) :: rest else (k, v) :: (a, b) :: rest)
    else if k = a then (if v = Memory.unlisted then rest else (k, v) :: rest)
    else (a, b) :: Memory.write rest k v

/-- The canonical form: addresses strictly rising, no cell equal to what an unlisted address reads as. -/
abbrev Memory.wf (m : Memory) : Prop :=
  m.Pairwise (fun c d => c.1 < d.1) ∧ ∀ c ∈ m, c.2 ≠ Memory.unlisted

/-- The address of channel `c` (0, 1, 2) of the pixel at column `x`, row `y` of a frame (log 6). -/
def pixelAddr (x y c : Nat) : Nat := (y * 65536 + x) * 3 + c

/-- A coordinate of the frame: `0 <= x < width` and `0 <= y < height` (R50). -/
def Frame.inBounds (f : Frame) (x y : Nat) : Bool :=
  decide (x < f.width.toNat) && decide (y < f.height.toNat)

/-- `PixRead(f, x, y)` of R53: the three channels as one value (R56); none outside the frame, where R53
defines nothing. -/
def pixRead (f : Frame) (x y : Nat) : Option Pixel :=
  if f.inBounds x y then
    some ⟨Memory.read f.pixels (pixelAddr x y 0), Memory.read f.pixels (pixelAddr x y 1),
      Memory.read f.pixels (pixelAddr x y 2)⟩
  else none

/-- The frame with another pixel at one coordinate: how a frame source builds the frame it presents. A
coordinate outside the frame has no pixel. -/
def setPixel (f : Frame) (x y : Nat) (p : Pixel) : Frame :=
  if f.inBounds x y then
    { f with
      pixels := Memory.write (Memory.write (Memory.write f.pixels (pixelAddr x y 0) p.ch0)
        (pixelAddr x y 1) p.ch1) (pixelAddr x y 2) p.ch2 }
  else f

/-- The canonical form of a frame: canonical pixel bytes, each belonging to a pixel of the frame, so that equal
frames are equal data (log 6). -/
abbrev Frame.wf (f : Frame) : Prop :=
  Memory.wf f.pixels ∧ ∀ c ∈ f.pixels, f.inBounds (c.1 / 3 % 65536) (c.1 / 3 / 65536) = true

end Sys2Proof.Machine
end

