-- ==== Sys2Proof/Machine/Sampler.lean ====
section
/-! DEFINITION. The Region Sampler of spec/40_region_sampler.md. -/

namespace Sys2Proof.Machine

/-- `Valid(r, f)` (R76). -/
def regionValid (r : Region) (f : Frame) : Bool :=
  decide (r.x0.toNat < r.x1.toNat) && decide (r.x1.toNat ≤ f.width.toNat) &&
    decide (r.y0.toNat < r.y1.toNat) && decide (r.y1.toNat ≤ f.height.toNat)

/-- The coordinate lies in the region (R75, R77). -/
def regionContains (r : Region) (c : Coord) : Bool :=
  decide (r.x0.toNat ≤ c.x) && decide (c.x < r.x1.toNat) &&
    decide (r.y0.toNat ≤ c.y) && decide (c.y < r.y1.toNat)

/-- A free answer brought into the region: every coordinate of the region is the fold of some answer, and no
other coordinate is (R77, log 4). -/
def foldIntoRegion (r : Region) (c : Coord) : Coord :=
  ⟨r.x0.toNat + c.x % (r.x1.toNat - r.x0.toNat), r.y0.toNat + c.y % (r.y1.toNat - r.y0.toNat)⟩

/-- The region of a region id (R75). -/
def regionOf (cfg : Configuration) : RegionId → Region
  | .sig => cfg.sigRegion
  | .clk => cfg.clkRegion

/-- The pinned answers for a region id (log 5). -/
def pinnedDraws (o : Operation) : RegionId → List Coord
  | .sig => o.sigDraws
  | .clk => o.clkDraws

/-- `draw((n, region_id, k))` (R77): the pinned answer where there is one, else the free answer. -/
def drawAnswer (s : State) (id : RegionId) (k : Nat) : Coord :=
  match (pinnedDraws (presented s) id)[k]? with
  | some c => c
  | none =>
    foldIntoRegion (regionOf s.cfg id)
      (Config.draw ⟨s.powerCycle, s.position, id, k, regionOf s.cfg id⟩)

/-- Why sampling stops (R53). -/
inductive SampleStop
  | answerOutsideRegion
  | pixelOutsideFrame
  deriving DecidableEq, Repr

/-- The three accumulators of the sampler (R79). -/
structure ChannelSums where
  sum0 : Nat
  sum1 : Nat
  sum2 : Nat
  deriving DecidableEq, Repr

/-- Add one pixel to the accumulators (R78). -/
def ChannelSums.add (t : ChannelSums) (p : Pixel) : ChannelSums :=
  ⟨t.sum0 + p.ch0.toNat, t.sum1 + p.ch1.toNat, t.sum2 + p.ch2.toNat⟩

/-- The pixel one draw reads, or why it cannot (R53, R77). -/
def drawnPixel (f : Frame) (r : Region) (c : Coord) : Except SampleStop Pixel :=
  if regionContains r c then
    match pixRead f c.x c.y with
    | some p => .ok p
    | none => .error .pixelOutsideFrame
  else .error .answerOutsideRegion

/-- The accumulators after draws `0 .. n-1` (R78). -/
def sampleSums (f : Frame) (r : Region) (draw : Nat → Coord) : Nat → Except SampleStop ChannelSums
  | 0 => .ok ⟨0, 0, 0⟩
  | k + 1 =>
    match sampleSums f r draw k with
    | .error e => .error e
    | .ok t =>
      match drawnPixel f r (draw k) with
      | .error e => .error e
      | .ok p => .ok (t.add p)

/-- The truncated means (R78). -/
def ChannelSums.mean (t : ChannelSums) (n : Nat) : Pixel :=
  ⟨BitVec.ofNat 8 (t.sum0 / n), BitVec.ofNat 8 (t.sum1 / n), BitVec.ofNat 8 (t.sum2 / n)⟩

/-- `Sample(f, r, region_id, n)` of R78 for a number of draws and an oracle. -/
def sample (f : Frame) (r : Region) (n : Nat) (draw : Nat → Coord) : Except SampleStop Pixel :=
  match sampleSums f r draw n with
  | .error e => .error e
  | .ok t => .ok (t.mean n)

/-- One region of the presented frame sampled with the present configuration (R78, R121). -/
def sampleRegion (s : State) (id : RegionId) : Except SampleStop Pixel :=
  sample (currentFrame s) (regionOf s.cfg id) s.cfg.nsamples.toNat (drawAnswer s id)

/-- How a step answers where sampling stops (R53). -/
def stopSampling : SampleStop → StepOutcome
  | .answerOutsideRegion => .refused .oracleOutsideRegion
  | .pixelOutsideFrame => .fault .pixelOutsideFrame

/-- `st.SAMPLE_SIG <- (cs, valid 1); st.SAMPLE_CLK <- (cc, valid 1)` (R121). -/
def storeSamples (cs cc : Pixel) (s : State) : State :=
  s.setSes { s.ses with sampleSig := ⟨cs, true⟩, sampleClk := ⟨cc, true⟩ }

end Sys2Proof.Machine
end

