-- ==== Sys2Proof/Machine/Pipeline.lean ====
section
/-! DEFINITION. The pipeline operations SYMBOL (spec/43_debouncer.md R102), INJECT and FRAME
(spec/46_pipeline_ops.md R121, R122), and the tail of the pipeline they share (R119, R120). -/

namespace Sys2Proof.Machine

/-- The stages from the debouncer on, for a raw symbol (R102, and stages 4 to 6 of R119). -/
def symbolStage (r : Symbol) (s : State) : State :=
  edgeStage (signalHalf (debouncePush r s).ses.debSym) (clockHalf (debouncePush r s).ses.debSym)
    (debouncePush r s)

/-- The symbol the classifier gives for the present windows and thresholds (R89, R90). -/
def classified (s : State) : Symbol :=
  classify s.cfg.low s.cfg.high (smoothed s.ses.qs) (smoothed s.ses.qc)

/-- `PipeFromSmoother(s, c)` (R120). -/
def pipeFromSmoother (sv cv : Byte) (s : State) : State :=
  symbolStage (classified (smoothPush sv cv s)) (smoothPush sv cv s)

/-- SYMBOL (R102). -/
def execSymbol (sym : Symbol) (s : State) : StepOutcome := inSession s (.next (symbolStage sym s))

/-- INJECT (R122). -/
def execInject (sv cv : Byte) (s : State) : StepOutcome :=
  inSession s (.next (pipeFromSmoother sv cv s))

/-- FRAME after both regions are valid (R121): the signal region is sampled before the clock region (R80). -/
def frameSampled (s : State) : StepOutcome :=
  match sampleRegion s .sig with
  | .error e => stopSampling e
  | .ok cs =>
    match sampleRegion s .clk with
    | .error e => stopSampling e
    | .ok cc =>
      .next (pipeFromSmoother (cs.lane s.cfg.sigCh) (cc.lane s.cfg.clkCh) (storeSamples cs cc s))

/-- FRAME (R121). -/
def execFrame (s : State) : StepOutcome :=
  inSession s
    (if regionValid s.cfg.sigRegion (currentFrame s) = false then .next (raise .invalidRegion s)
     else if regionValid s.cfg.clkRegion (currentFrame s) = false then .next (raise .invalidRegion s)
     else frameSampled s)

end Sys2Proof.Machine
end

