-- ==== Sys2Proof/Machine/Dispatch.lean ====
section
/-! DEFINITION. `exec`: one arm per operation of spec/opcode_table.json. -/

namespace Sys2Proof.Machine

/-- The meaning of each operation. -/
def exec (i : Instr) (s : State) : Host.Outcome State Fault Refusal :=
  match i with
  | .nop => Sys2Proof.Machine.execNop s
  | .start => Sys2Proof.Machine.execStart s
  | .frame => Sys2Proof.Machine.execFrame s
  | .endStream => Sys2Proof.Machine.execEndStream s
  | .stop => Sys2Proof.Machine.execStop s
  | .inject sv cv => Sys2Proof.Machine.execInject sv cv s
  | .symbol sym => Sys2Proof.Machine.execSymbol sym s
  | .edge sig clk => Sys2Proof.Machine.execEdge sig clk s
  | .bit b => Sys2Proof.Machine.execBit b s
  | .deriv u v => Sys2Proof.Machine.execDeriv u v s
  | .cfgwr idx data => Sys2Proof.Machine.execCfgwr idx data s
  | .clrerr mask => Sys2Proof.Machine.execClrerr mask s

end Sys2Proof.Machine
end

