-- ==== Sys2Proof/Decode.lean ====
section
/-! DEFINITION. The decoder of spec/30_encoding.md R65 to R71, total on every 32-bit word, and after it the
encoder of R66, R69 and R73. -/

namespace Sys2Proof

/-! ## Fields at their places -/

/-- A field placed with its bit 0 at bit `lo` of a word, every other bit 0 (R9). -/
def placeField {n : Nat} (lo : Nat) (v : BitVec n) : Word := v.setWidth 32 <<< lo

/-! ## Codes of operand types -/

/-- The 2-bit code of a symbol (R68). -/
def Symbol.code : Symbol → BitVec 2
  | .neither => 0b00#2
  | .signal => 0b01#2
  | .clock => 0b10#2
  | .both => 0b11#2

/-- The symbol of a 2-bit code; every code is legal (R68). -/
def Symbol.ofCode (c : BitVec 2) : Symbol :=
  match c.getLsbD 1, c.getLsbD 0 with
  | false, false => .neither
  | false, true => .signal
  | true, false => .clock
  | true, true => .both

/-- The unit-select bit of a derivative unit (R66). -/
def DerivUnit.code : DerivUnit → BitVec 1
  | .d0 => 0#1
  | .d1 => 1#1

/-- The derivative unit of the unit-select bit (R66). -/
def DerivUnit.ofBit : Bool → DerivUnit
  | false => .d0
  | true => .d1

/-! ## The opcode map and the formats -/

/-- The rows of the opcode map (R69). -/
inductive Opcode
  | nop
  | start
  | frame
  | endStream
  | stop
  | inject
  | symbol
  | edge
  | bit
  | deriv
  | cfgwr
  | clrerr
  deriving DecidableEq, Repr

/-- The formats (R66). -/
inductive Format
  | z
  | iv
  | sy
  | sc
  | b
  | dv
  | cw
  | m
  deriving DecidableEq, Repr

/-- The OPC field of an operation (R69). -/
def Opcode.code : Opcode → BitVec 4
  | .nop => 0x0#4
  | .start => 0x1#4
  | .frame => 0x2#4
  | .endStream => 0x3#4
  | .stop => 0x4#4
  | .inject => 0x5#4
  | .symbol => 0x6#4
  | .edge => 0x7#4
  | .bit => 0x8#4
  | .deriv => 0x9#4
  | .cfgwr => 0xA#4
  | .clrerr => 0xB#4

/-- The row an OPC field selects; 0xC to 0xF are reserved (R69). -/
def opcodeOf (opc : BitVec 4) : Option Opcode :=
  match opc.toNat with
  | 0x0 => some .nop
  | 0x1 => some .start
  | 0x2 => some .frame
  | 0x3 => some .endStream
  | 0x4 => some .stop
  | 0x5 => some .inject
  | 0x6 => some .symbol
  | 0x7 => some .edge
  | 0x8 => some .bit
  | 0x9 => some .deriv
  | 0xA => some .cfgwr
  | 0xB => some .clrerr
  | _ => none

/-- The format of an operation (R69). -/
def Opcode.format : Opcode → Format
  | .nop => .z
  | .start => .z
  | .frame => .z
  | .endStream => .z
  | .stop => .z
  | .inject => .iv
  | .symbol => .sy
  | .edge => .sc
  | .bit => .b
  | .deriv => .dv
  | .cfgwr => .cw
  | .clrerr => .m

/-- The reserved bits of a format (R70). -/
def reservedMask : Format → Word
  | .z => 0x0FFFFFFF#32
  | .iv => 0x0FFF0000#32
  | .sy => 0x0FFFFFFC#32
  | .sc => 0x0FFFFFFC#32
  | .b => 0x0FFFFFFE#32
  | .dv => 0x0FFFFE00#32
  | .cw => 0x0FF00000#32
  | .m => 0x0FFFFFC0#32

/-! ## Fields (R65, R67) -/

/-- `OPC = w[31:28]` (R65). -/
def opcField (w : Word) : BitVec 4 := w.extractLsb' 28 4

/-- `S = w[7:0]`, and DERIV's `V` (R67). -/
def lowByteField (w : Word) : Byte := w.extractLsb' 0 8

/-- `C = w[15:8]` (R67). -/
def highByteField (w : Word) : Byte := w.extractLsb' 8 8

/-- `SYM = w[1:0]` (R67). -/
def symField (w : Word) : BitVec 2 := w.extractLsb' 0 2

/-- `SIG = w[0]`, and BIT's `B` (R67). -/
def bit0Field (w : Word) : Bool := w.getLsbD 0

/-- `CLK = w[1]` (R67). -/
def bit1Field (w : Word) : Bool := w.getLsbD 1

/-- `U = w[8]` (R67). -/
def unitField (w : Word) : Bool := w.getLsbD 8

/-- `IDX = w[19:16]` (R67). -/
def idxField (w : Word) : BitVec 4 := w.extractLsb' 16 4

/-- `DATA = w[15:0]` (R67). -/
def dataField (w : Word) : Half := w.extractLsb' 0 16

/-- `MASK = w[5:0]` (R67). -/
def maskField (w : Word) : BitVec 6 := w.extractLsb' 0 6

/-! ## Decoding -/

/-- Why a word is illegal: the three kinds of R71. -/
inductive IllegalWord
  /-- `OPC` is 0xC to 0xF. -/
  | reservedOpcode
  /-- A reserved bit is not 0. -/
  | reservedBits
  /-- CFGWR with `IDX` 0xC to 0xF. -/
  | reservedIndex
  deriving DecidableEq, Repr

/-- The operation of a row with the operand fields of a word (R67). -/
def operandsOf (op : Opcode) (w : Word) : Instr :=
  match op with
  | .nop => .nop
  | .start => .start
  | .frame => .frame
  | .endStream => .endStream
  | .stop => .stop
  | .inject => .inject (lowByteField w) (highByteField w)
  | .symbol => .symbol (Symbol.ofCode (symField w))
  | .edge => .edge (bit0Field w) (bit1Field w)
  | .bit => .bit (bit0Field w)
  | .deriv => .deriv (DerivUnit.ofBit (unitField w)) (lowByteField w)
  | .cfgwr => .cfgwr (idxField w) (dataField w)
  | .clrerr => .clrerr (maskField w)

/-- `decode(w)` of R70, with its tests in R70's order. -/
def decode (w : Word) : Except IllegalWord Instr :=
  match opcodeOf (opcField w) with
  | none => .error .reservedOpcode
  | some op =>
    if w &&& reservedMask op.format ≠ 0#32 then .error .reservedBits
    else if op = .cfgwr ∧ legalIndex (idxField w) = false then .error .reservedIndex
    else .ok (operandsOf op w)

/-- The 32-bit word whose first `nbits` bits are those of `w` and whose other bits are 0. -/
def tableWord (nbits w : Nat) : Word := BitVec.ofNat 32 (w % 2 ^ nbits)

/-- The instruction the decoder reads from an opcode-table word; none where it refuses. An operation is one
whole word (R64), so there is no byte order to lay out (R54). -/
def decodeTableWord (nbits w : Nat) : Option Instr :=
  match decode (tableWord nbits w) with
  | .ok i => some i
  | .error _ => none

/-! ## Encoding -/

/-- The row of an operation (R69). -/
def Instr.opcode : Instr → Opcode
  | .nop => .nop
  | .start => .start
  | .frame => .frame
  | .endStream => .endStream
  | .stop => .stop
  | .inject _ _ => .inject
  | .symbol _ => .symbol
  | .edge _ _ => .edge
  | .bit _ => .bit
  | .deriv _ _ => .deriv
  | .cfgwr _ _ => .cfgwr
  | .clrerr _ => .clrerr

/-- The operand fields of an operation's word, at their places (R66, R73). -/
def operandBits : Instr → Word
  | .nop => 0#32
  | .start => 0#32
  | .frame => 0#32
  | .endStream => 0#32
  | .stop => 0#32
  | .inject s c => placeField 8 c ||| placeField 0 s
  | .symbol sym => placeField 0 sym.code
  | .edge sig clk => placeField 1 (BitVec.ofBool clk) ||| placeField 0 (BitVec.ofBool sig)
  | .bit b => placeField 0 (BitVec.ofBool b)
  | .deriv u v => placeField 8 u.code ||| placeField 0 v
  | .cfgwr idx data => placeField 16 idx ||| placeField 0 data
  | .clrerr mask => placeField 0 mask

/-- The word of an operation (R66, R69). -/
def encode (i : Instr) : Word := placeField 28 i.opcode.code ||| operandBits i

end Sys2Proof
end

