-- ==== Sys2Proof/Machine/Port.lean ====
section
/-! DEFINITION. What arrives at the OFD and how it is taken: the operation port (spec/10_state.md R14), the
SRC_AVAILABLE input (spec/60_exceptions.md R134) and the RESET input (spec/70_reset_and_hazards.md R150). -/

namespace Sys2Proof.Machine

/-- RESET (R48, R150): every OFD field at its power-on value. The sink's history stays (R48), the input level
stays, what is still to come on the port stays to come, and the operation position starts again (log 7, log 8). -/
def powerOnReset (s : State) : State :=
  { State.reset with
    srcAvailable := s.srcAvailable
    sink := s.sink
    port := s.port.tail
    powerCycle := s.powerCycle + 1 }

/-- SRC_AVAILABLE changes between operations; the OFD itself does not (R134, log 9). -/
def sourceChange (available : Bool) (s : State) : State :=
  (s.setSource available).setPort s.port.tail

/-- An operation that answered a next state is consumed from the port (R62). -/
def retireOutcome : StepOutcome → StepOutcome
  | .next s => .next s.retire
  | .fault r => .fault r
  | .refused r => .refused r

/-- One operation word: ILLEGAL_OP before anything else (R135), else the decoded operation is run. -/
def runWord (run : Instr → State → StepOutcome) (w : Word) (s : State) : StepOutcome :=
  match decode w with
  | .error _ => .next (raise .illegalOp s)
  | .ok i => run i s

/-- One step on the port's next input. With none the OFD is idle and holds all state (R149, log 3). -/
def runPort (run : Instr → State → StepOutcome) (s : State) : StepOutcome :=
  match s.port with
  | [] => .next s
  | .op o :: _ => retireOutcome (runWord run o.word s)
  | .source available :: _ => .next (sourceChange available s)
  | .reset :: _ => .next (powerOnReset s)

/-- The operation of an opcode-table word as the host presents it: an empty frame, no pinned answer. -/
def tableOperation (nbits w : Nat) : Operation := ⟨tableWord nbits w, ⟨0#16, 0#16, []⟩, [], []⟩

/-- The port with a word presented at its front: it replaces the word of an operation presented there, which
keeps its frame and answers; else it is a new operation. -/
def presentWord (p : List PortEvent) (nbits w : Nat) : List PortEvent :=
  match p with
  | .op o :: rest => .op { o with word := tableWord nbits w } :: rest
  | rest => .op (tableOperation nbits w) :: rest

end Sys2Proof.Machine
end

