-- ==== Sys2Proof/Machine/Step.lean ====
section
/-! DEFINITION. The one step function of the OFD, and where the host places an operation word. -/

namespace Sys2Proof.Machine

/-- One step (spec/10_state.md R14, spec/20_memory.md R59). -/
def step (s : State) : Host.Outcome State Fault Refusal := runPort exec s

/-- The state with an opcode-table word presented on the operation port, so that the very next step runs it
(log 2). -/
def State.withFetchWord (s : State) (nbits w : Nat) : State := s.setPort (presentWord s.port nbits w)

end Sys2Proof.Machine
end

