-- ==== Sys2Proof/Machine/AsmText.lean ====
section
/-! DEFINITION. The assembler of spec/30_encoding.md: the lines of R73 and the pseudo-operations of R74. It
stands beside the machine: the OFD itself takes words. -/

namespace Sys2Proof.Machine

/-- An operand of an assembly line: a number, or a name (R73). -/
inductive AsmOperand
  | num (n : Nat)
  | name (s : String)
  deriving DecidableEq, Repr

/-- One line: a mnemonic and its operands (R73). -/
structure AsmLine where
  mnemonic : String
  operands : List AsmOperand
  deriving DecidableEq, Repr

/-! ## Operands -/

/-- A number in a field of `bits` bits; a number that does not fit is no operand (log 16). -/
def numberOperand (bits : Nat) : AsmOperand → Option (BitVec bits)
  | .num n => if n < 2 ^ bits then some (BitVec.ofNat bits n) else none
  | .name _ => none

/-- A one-bit operand. -/
def bitOperand (x : AsmOperand) : Option Bool := (numberOperand 1 x).map (fun v => v.getLsbD 0)

/-- `sym` is `N`, `S`, `C`, `B` or 0 to 3 (R73). -/
def symbolOperand : AsmOperand → Option Symbol
  | .num n => (numberOperand 2 (.num n)).map Symbol.ofCode
  | .name s =>
    match s with
    | "N" => some .neither
    | "S" => some .signal
    | "C" => some .clock
    | "B" => some .both
    | _ => none

/-- The configuration registers by name (R31, R73). -/
def registerNames : List (String × BitVec 4) :=
  [("SIG_X0", 0x0#4), ("SIG_X1", 0x1#4), ("SIG_Y0", 0x2#4), ("SIG_Y1", 0x3#4),
   ("CLK_X0", 0x4#4), ("CLK_X1", 0x5#4), ("CLK_Y0", 0x6#4), ("CLK_Y1", 0x7#4),
   ("CHAN", 0x8#4), ("THRESH", 0x9#4), ("LENS", 0xA#4), ("NSAMPLES", 0xB#4)]

/-- A configuration register: its name, or its index up to 0x0B (R73). -/
def registerOperand : AsmOperand → Option (BitVec 4)
  | .num n => if n < 12 then some (BitVec.ofNat 4 n) else none
  | .name s => registerNames.lookup s

/-! ## Pseudo-operations -/

/-- The pseudo-operations of R74. -/
inductive Pseudo
  | setRegion (id : RegionId) (x0 x1 y0 y1 : Half)
  | setChan (sig clk : Half)
  | setThresh (low high : Half)
  | setLens (smooth deb : Half)
  | setSamples (n : Half)
  | clrerrAll
  deriving DecidableEq, Repr

/-- The operations a pseudo-operation stands for, in their order (R74). -/
def expandPseudo : Pseudo → List Instr
  | .setRegion .sig x0 x1 y0 y1 => [.cfgwr 0x0 x0, .cfgwr 0x1 x1, .cfgwr 0x2 y0, .cfgwr 0x3 y1]
  | .setRegion .clk x0 x1 y0 y1 => [.cfgwr 0x4 x0, .cfgwr 0x5 x1, .cfgwr 0x6 y0, .cfgwr 0x7 y1]
  | .setChan sig clk => [.cfgwr 0x8 (clk <<< 2 ||| sig)]
  | .setThresh low high => [.cfgwr 0x9 (high <<< 8 ||| low)]
  | .setLens smooth deb => [.cfgwr 0xA (deb <<< 4 ||| smooth)]
  | .setSamples n => [.cfgwr 0xB n]
  | .clrerrAll => [.clrerr 0x3F#6]

/-- The region a SETREGION line names (R74). -/
def regionOperand : AsmOperand → Option RegionId
  | .num _ => none
  | .name s =>
    match s with
    | "SIG" => some .sig
    | "CLK" => some .clk
    | _ => none

/-- The pseudo-operation of a line, if it is one (R74). An operand that R74 shifts up must fit DATA's 16 bits after
the shift, and the one below it may be any 16-bit number (DESIGN CHOICE, log 16). -/
def pseudoOf (l : AsmLine) : Option Pseudo :=
  match l.mnemonic, l.operands with
  | "SETREGION", [r, x0, x1, y0, y1] => do
    return .setRegion (← regionOperand r) (← numberOperand 16 x0) (← numberOperand 16 x1)
      (← numberOperand 16 y0) (← numberOperand 16 y1)
  | "SETCHAN", [sig, clk] => do
    return .setChan (← numberOperand 16 sig) ((← numberOperand 14 clk).setWidth 16)
  | "SETTHRESH", [low, high] => do
    return .setThresh (← numberOperand 16 low) ((← numberOperand 8 high).setWidth 16)
  | "SETLENS", [smooth, deb] => do
    return .setLens (← numberOperand 16 smooth) ((← numberOperand 12 deb).setWidth 16)
  | "SETSAMPLES", [n] => (numberOperand 16 n).map Pseudo.setSamples
  | "CLRERR", [] => some .clrerrAll
  | _, _ => none

/-! ## Lines -/

/-- The operation of a line, if it is one of R73. -/
def operationOf (l : AsmLine) : Option Instr :=
  match l.mnemonic, l.operands with
  | "NOP", [] => some .nop
  | "START", [] => some .start
  | "FRAME", [] => some .frame
  | "END", [] => some .endStream
  | "STOP", [] => some .stop
  | "INJECT", [s, c] => do return .inject (← numberOperand 8 s) (← numberOperand 8 c)
  | "SYMBOL", [x] => (symbolOperand x).map Instr.symbol
  | "EDGE", [sig, clk] => do return .edge (← bitOperand sig) (← bitOperand clk)
  | "BIT", [b] => (bitOperand b).map Instr.bit
  | "DERIV", [u, v] => do return .deriv (DerivUnit.ofBit (← bitOperand u)) (← numberOperand 8 v)
  | "CFGWR", [r, d] => do return .cfgwr (← registerOperand r) (← numberOperand 16 d)
  | "CLRERR", [m] => (numberOperand 6 m).map Instr.clrerr
  | _, _ => none

/-- The operations a line stands for: one, or a pseudo-operation's expansion (R73, R74). -/
def assembleLine (l : AsmLine) : Option (List Instr) :=
  match operationOf l with
  | some i => some [i]
  | none => (pseudoOf l).map expandPseudo

/-- The line of an operation, with decimal operands (R73). -/
def lineOf : Instr → AsmLine
  | .nop => ⟨"NOP", []⟩
  | .start => ⟨"START", []⟩
  | .frame => ⟨"FRAME", []⟩
  | .endStream => ⟨"END", []⟩
  | .stop => ⟨"STOP", []⟩
  | .inject s c => ⟨"INJECT", [.num s.toNat, .num c.toNat]⟩
  | .symbol sym => ⟨"SYMBOL", [.num sym.code.toNat]⟩
  | .edge sig clk => ⟨"EDGE", [.num sig.toNat, .num clk.toNat]⟩
  | .bit b => ⟨"BIT", [.num b.toNat]⟩
  | .deriv u v => ⟨"DERIV", [.num u.code.toNat, .num v.toNat]⟩
  | .cfgwr idx data => ⟨"CFGWR", [.num idx.toNat, .num data.toNat]⟩
  | .clrerr mask => ⟨"CLRERR", [.num mask.toNat]⟩

/-! ## Text -/

/-- The pieces of a text between separators. -/
def splitChars (sep : Char) : List Char → List (List Char)
  | [] => [[]]
  | c :: rest =>
    match splitChars sep rest with
    | [] => [[c]]
    | piece :: pieces => if c = sep then [] :: piece :: pieces else (c :: piece) :: pieces

/-- The hexadecimal digits in the order of their values, a letter in either case; the decimal digits are the
first ten (R73, log 16). -/
def digitForms : List (List Char) :=
  ["0", "1", "2", "3", "4", "5", "6", "7", "8", "9", "aA", "bB", "cC", "dD", "eE", "fF"].map String.toList

/-- The value of a digit of a base: its place among the digits of that base. -/
def digitValue (base : Nat) (c : Char) : Option Nat :=
  (digitForms.take base).findIdx? (fun forms => forms.contains c)

/-- Digits read on from a value; none at a character that is no digit. -/
def digitsValue (base : Nat) : List Char → Nat → Option Nat
  | [], acc => some acc
  | c :: rest, acc =>
    match digitValue base c with
    | some v => digitsValue base rest (acc * base + v)
    | none => none

/-- A number, decimal or hexadecimal with `0x` (R73); at least one digit. -/
def numberText : List Char → Option Nat
  | [] => none
  | '0' :: 'x' :: d :: rest => digitsValue 16 (d :: rest) 0
  | cs => digitsValue 10 cs 0

/-- One operand's text: a number, else a name. -/
def operandText (cs : List Char) : AsmOperand :=
  match numberText cs with
  | some n => .num n
  | none => .name (String.ofList cs)

/-- A text without the spaces at its two ends. -/
def trimSpaces (cs : List Char) : List Char :=
  ((cs.dropWhile (· = ' ')).reverse.dropWhile (· = ' ')).reverse

/-- A line of text: a mnemonic, then comma-separated operands (R73). DESIGN CHOICE (log 16), safe: R73 says nothing
of blanks. Spaces before the mnemonic, after it, at the two ends of an operand and at the end of the line are passed
over; a space inside an operand stays in it, so that it is neither a number nor a name and the line is refused. -/
def lineText (s : String) : AsmLine :=
  let cs := trimSpaces s.toList
  let operands := trimSpaces (cs.dropWhile (· ≠ ' '))
  ⟨String.ofList (cs.takeWhile (· ≠ ' ')),
    if operands = [] then [] else (splitChars ',' operands).map (fun piece => operandText (trimSpaces piece))⟩

/-- The words of a line of text (R73, R74). -/
def assembleText (s : String) : Option (List Word) :=
  (assembleLine (lineText s)).map (fun is => is.map encode)

end Sys2Proof.Machine
end

