-- ==== Sys2Proof/Machine/ReadPort.lean ====
section
/-! DEFINITION. The register read port of spec/10_state.md R31 to R47: a function of the state with no side
effect. -/

namespace Sys2Proof.Machine

/-- A coordinate register (R32). -/
def coordinateReg (h : Half) : Word := placeField 0 h

/-- CHAN (R33). -/
def chanReg (c : Configuration) : Word := placeField 2 c.clkCh.code ||| placeField 0 c.sigCh.code

/-- THRESH (R34). -/
def threshReg (c : Configuration) : Word := placeField 8 c.high ||| placeField 0 c.low

/-- LENS (R35). -/
def lensReg (c : Configuration) : Word := placeField 4 c.debLen ||| placeField 0 c.smoothLen

/-- NSAMPLES (R36). -/
def nsamplesReg (c : Configuration) : Word := placeField 0 c.nsamples

/-- `PEND_CNT`, 3 bits (R23). -/
def pendCnt (x : Session) : BitVec 3 := BitVec.ofNat 3 x.pend.length

/-- `DEB_CNT`, 4 bits (R20). -/
def debCnt (x : Session) : BitVec 4 := BitVec.ofNat 4 x.win.length

/-- STATUS (R38). -/
def statusReg (s : State) : Word :=
  placeField 0 (BitVec.ofBool s.active) ||| placeField 1 (BitVec.ofBool s.ses.prevClock) |||
    placeField 2 (pendCnt s.ses) ||| placeField 5 s.ses.rawSym.code |||
    placeField 7 (BitVec.ofBool s.ses.rawValid) ||| placeField 8 s.ses.debSym.code |||
    placeField 10 (BitVec.ofBool s.ses.debValid) ||| placeField 11 (BitVec.ofBool s.ses.lastBit) |||
    placeField 12 (BitVec.ofBool s.ses.lastBitValid) ||| placeField 13 (debCnt s.ses) |||
    placeField 17 (BitVec.ofBool s.srcAvailable)

/-- ERR (R39). -/
def errReg (s : State) : Word := placeField 0 s.err

/-- SAMPLE_SIG and SAMPLE_CLK (R40). -/
def sampleReg (x : SampleField) : Word :=
  placeField 24 (BitVec.ofBool x.valid) ||| placeField 16 x.color.ch2 ||| placeField 8 x.color.ch1 |||
    placeField 0 x.color.ch0

/-- SMOOTH_SIG and SMOOTH_CLK (R41): `CNT` 4 bits, `SUM` 12 bits. -/
def smoothReg (q : List Byte) : Word :=
  placeField 12 (BitVec.ofNat 4 (smoothed q).cnt) ||| placeField 0 (BitVec.ofNat 12 (smoothed q).sum)

/-- PENDING (R42): `PEND_ACC`, 7 bits (R23). -/
def pendingReg (x : Session) : Word := placeField 0 (BitVec.ofNat 7 (bitsValue x.pend))

/-- LAST_BYTE (R43). -/
def lastByteReg (x : Session) : Word := placeField 8 (BitVec.ofBool x.lastByteValid) ||| placeField 0 x.lastByte

/-- DERIV0 and DERIV1 (R44). -/
def derivReg (u : DerivState) : Word :=
  placeField 24 u.prev ||| placeField 17 (BitVec.ofBool u.hasPrev) |||
    placeField 16 (BitVec.ofBool u.valid) ||| placeField 0 (u.diff.signExtend 16)

/-- `sum of code(w[i]) << 2i`, the window packed with the oldest lowest (R45). -/
def packSymbols : List Symbol → Nat
  | [] => 0
  | x :: rest => x.code.toNat + 4 * packSymbols rest

/-- DEB_WIN (R45): the fields of at most 15 symbols, bits 31 and 30 read 0. -/
def debWinReg (w : List Symbol) : Word := placeField 0 (BitVec.ofNat 30 (packSymbols w))

/-- ERR_INFO (R46). -/
def errInfoReg (s : State) : Word := placeField 0 s.errInfo

/-- The register map (R31). An index not listed is reserved and reads 0 (R37). -/
def readReg (s : State) (idx : BitVec 5) : Word :=
  match idx.toNat with
  | 0x00 => coordinateReg s.cfg.sigRegion.x0
  | 0x01 => coordinateReg s.cfg.sigRegion.x1
  | 0x02 => coordinateReg s.cfg.sigRegion.y0
  | 0x03 => coordinateReg s.cfg.sigRegion.y1
  | 0x04 => coordinateReg s.cfg.clkRegion.x0
  | 0x05 => coordinateReg s.cfg.clkRegion.x1
  | 0x06 => coordinateReg s.cfg.clkRegion.y0
  | 0x07 => coordinateReg s.cfg.clkRegion.y1
  | 0x08 => chanReg s.cfg
  | 0x09 => threshReg s.cfg
  | 0x0A => lensReg s.cfg
  | 0x0B => nsamplesReg s.cfg
  | 0x10 => statusReg s
  | 0x11 => errReg s
  | 0x12 => sampleReg s.ses.sampleSig
  | 0x13 => sampleReg s.ses.sampleClk
  | 0x14 => smoothReg s.ses.qs
  | 0x15 => smoothReg s.ses.qc
  | 0x16 => pendingReg s.ses
  | 0x17 => lastByteReg s.ses
  | 0x18 => derivReg s.ses.d0
  | 0x19 => derivReg s.ses.d1
  | 0x1A => debWinReg s.ses.win
  | 0x1B => errInfoReg s
  | 0x1C => s.errWord
  | 0x1D => Config.idValue
  | _ => 0#32

end Sys2Proof.Machine
end

