-- ==== Sys2Proof/Safety.lean ====
section
/-! DEFINITION. What counts as a safe run: the invariants of spec/10_state.md R28 and the legal configuration
of R15 and R137, as statements use them. -/

namespace Sys2Proof.Machine

/-- Every configuration field has a legal value (R15, R137). The channel fields are legal by their type. -/
abbrev Configuration.legal (c : Configuration) : Prop :=
  c.smoothLen ≠ 0#4 ∧ c.debLen ≠ 0#4 ∧ c.nsamples ≠ 0#16

/-- The session bounds that hold with or without a session: both smoothers hold equally many values and no
window is longer than the largest legal length (R28 items 1 and 2 as far as they hold when idle, log 10), and
at most 7 bits are pending (R28 item 3). -/
abbrev Session.bounded (x : Session) : Prop :=
  x.qs.length = x.qc.length ∧ x.qs.length ≤ Config.maxWindow ∧ x.win.length ≤ Config.maxWindow ∧
    x.pend.length ≤ 7

/-- In a session the windows are within the configured lengths (R28 items 1, 2 and 5). -/
abbrev Session.withinLengths (x : Session) (c : Configuration) : Prop :=
  x.qs.length ≤ c.smoothLen.toNat ∧ x.win.length ≤ c.debLen.toNat

/-- A derivative unit is as some pushes leave it: before the first push all its fields are 0, and a valid
difference was produced (R25, R96). -/
abbrev DerivState.consistent (u : DerivState) : Prop :=
  (u.hasPrev = false → u = DerivState.initial) ∧ (u.valid = false → u.diff = 0#9) ∧
    -255 ≤ u.diff.toInt ∧ u.diff.toInt ≤ 255

/-- The valid bits agree with the fields they speak of: a debounced symbol comes with a raw one, both sample
fields are written together, and a field not valid has its initial value (R17, R19, R22, R24). -/
abbrev Session.validBits (x : Session) : Prop :=
  x.rawValid = x.debValid ∧ x.sampleSig.valid = x.sampleClk.valid ∧
    (x.rawValid = false → x.rawSym = .neither ∧ x.debSym = .neither ∧ x.win = [] ∧ x.qs = []) ∧
    (x.sampleSig.valid = false → x.sampleSig = SampleField.initial ∧ x.sampleClk = SampleField.initial) ∧
    (x.lastByteValid = false → x.lastByte = 0#8)

/-- `ERR_INFO` is 0 or the code of an error, and 0 means no error since power-on (R131). -/
abbrev State.errorFieldsLegal (s : State) : Prop :=
  s.errInfo.toNat ≤ 6 ∧ (s.errInfo = 0#4 → s.err = 0#6 ∧ s.errWord = 0#32)

/-- The frames still to come are in canonical form. -/
def PortEvent.framesWf : PortEvent → Prop
  | .op o => Frame.wf o.frame
  | .source _ => True
  | .reset => True

/-- The invariant of the OFD. -/
structure State.Inv (s : State) : Prop where
  legal : s.cfg.legal
  bounded : s.ses.bounded
  within : s.active = true → s.ses.withinLengths s.cfg
  pendIdle : s.active = false → s.ses.pend = []
  d0 : s.ses.d0.consistent
  d1 : s.ses.d1.consistent
  valid : s.ses.validBits
  errors : s.errorFieldsLegal
  frames : ∀ e ∈ s.port, e.framesWf

/-! ## Runs of operations -/

/-- A list of operations run one after another on what the port presents, stopping at the first that does not
answer a next state. -/
def execAll : List Instr → State → StepOutcome
  | [], s => .next s
  | i :: rest, s =>
    match exec i s with
    | .next t => execAll rest t
    | .fault r => .fault r
    | .refused r => .refused r

/-- The operations that need a session (R136). -/
def needsSession (i : Instr) : Bool :=
  match i.opcode with
  | .nop => false
  | .start => false
  | .frame => true
  | .endStream => true
  | .stop => true
  | .inject => true
  | .symbol => true
  | .edge => true
  | .bit => true
  | .deriv => true
  | .cfgwr => false
  | .clrerr => false

/-- The injection operations of R123. -/
def isInjection (i : Instr) : Bool := i.opcode ∈ [.inject, .symbol, .edge, .bit]

/-! ## Errors as R131 and R139 list them -/

/-- The region fails R76's test for the frame. -/
def outsideFrame (r : Region) (f : Frame) : Bool :=
  decide (r.x1.toNat ≤ r.x0.toNat) || decide (f.width.toNat < r.x1.toNat) ||
    decide (r.y1.toNat ≤ r.y0.toNat) || decide (f.height.toNat < r.y1.toNat)

/-- CFGWR's illegal values, by arithmetic on the 16-bit operand (R33, R35, R36). -/
def illegalValue (idx : BitVec 4) (data : Half) : Bool :=
  match idx.toNat with
  | 0x8 => decide (16 ≤ data.toNat) || decide (data.toNat % 4 = 3) || decide (data.toNat / 4 % 4 = 3)
  | 0xA => decide (256 ≤ data.toNat) || decide (data.toNat % 16 = 0) || decide (data.toNat / 16 % 16 = 0)
  | 0xB => decide (data.toNat = 0)
  | _ => false

/-- The code (R131) of the first error in R139's order that applies to an operation, if any does. -/
def expectedError (i : Instr) (s : State) : Option Nat :=
  if i.wellFormed = false then some 3
  else if needsSession i = true ∧ s.active = false then some 5
  else
    match i with
    | .nop => none
    | .start => if s.srcAvailable = false then some 2 else none
    | .frame =>
      if outsideFrame s.cfg.sigRegion (currentFrame s) = true then some 1
      else if outsideFrame s.cfg.clkRegion (currentFrame s) = true then some 1
      else none
    | .endStream => none
    | .stop => none
    | .inject _ _ => none
    | .symbol _ => none
    | .edge _ _ => none
    | .bit _ => none
    | .deriv _ _ => none
    | .cfgwr idx data =>
      if idx.toNat = 0xA ∧ s.active = true then some 4
      else if illegalValue idx data = true then some 6
      else none
    | .clrerr _ => none

/-- The reserved bits of the format of an OPC value, by the tables of R66 and R69. -/
def reservedBitsOfOpc (opc : Nat) : Word :=
  [0x0FFFFFFF#32, 0x0FFFFFFF#32, 0x0FFFFFFF#32, 0x0FFFFFFF#32, 0x0FFFFFFF#32, 0x0FFF0000#32,
    0x0FFFFFFC#32, 0x0FFFFFFC#32, 0x0FFFFFFE#32, 0x0FFFFE00#32, 0x0FF00000#32, 0x0FFFFFC0#32].getD opc 0#32

/-- The three kinds of illegal word (R71). -/
def illegalKind (w : Word) : Prop :=
  12 ≤ w.toNat / 2 ^ 28 ∨
    (w.toNat / 2 ^ 28 < 12 ∧ w &&& reservedBitsOfOpc (w.toNat / 2 ^ 28) ≠ 0#32) ∨
    (w.toNat / 2 ^ 28 = 10 ∧ 12 ≤ w.toNat / 2 ^ 16 % 16)

/-! ## The sampler -/

/-- The byte of channel `ch` that draw `k` reads (R78). -/
def drawnByte (s : State) (id : RegionId) (ch k : Nat) : Nat :=
  (Memory.read (currentFrame s).pixels
    (pixelAddr (drawAnswer s id k).x (drawAnswer s id k).y ch)).toNat

/-- `sum div N` of one lane (R78). -/
def meanOfDraws (s : State) (id : RegionId) (ch : Nat) : Nat :=
  ((List.range s.cfg.nsamples.toNat).map (drawnByte s id ch)).sum / s.cfg.nsamples.toNat

/-- A pixel whose three channels are the truncated means of a region's draws (R78). -/
def isMeanOfDraws (s : State) (id : RegionId) (p : Pixel) : Prop :=
  p.ch0.toNat = meanOfDraws s id 0 ∧ p.ch1.toNat = meanOfDraws s id 1 ∧ p.ch2.toNat = meanOfDraws s id 2

/-- Every pinned oracle answer of the presented operation that FRAME would use lies in its region: what R77
asks of the oracle. -/
def answersInside (s : State) : Prop :=
  ∀ id : RegionId, ∀ k : Nat, k < s.cfg.nsamples.toNat → ∀ c : Coord,
    (pinnedDraws (presented s) id)[k]? = some c → regionContains (regionOf s.cfg id) c = true

end Sys2Proof.Machine
end

