-- ==== Sys2Proof/Certificates/Slice0/Obligations.lean ====
section
/-! DEFINITION. The statements about the OFD, from the numbered rules of spec/. -/

open Sys2Proof Sys2Proof.Machine

/-! ## Encoding (spec/30_encoding.md) -/

/-- R66, R67, R69, R70: decoding the word of a legal operation gives the operation back, with every operand. -/
def Obligations.DecodeAfterEncode : Prop :=
  ∀ i : Instr, i.wellFormed = true → decode (encode i) = .ok i

/-- R66, R67, R69, R70: a word that decodes is the word of the operation it decodes to, and that operation is
legal: no bit of a legal word is dropped. -/
def Obligations.EncodeAfterDecode : Prop :=
  ∀ (w : Word) (i : Instr), decode w = .ok i → encode i = w ∧ i.wellFormed = true

/-- R70 and spec/opcode_table.json: a word decodes iff it matches a row's mask and match, and for CFGWR its
index is 0 to 0xB. -/
def Obligations.LegalWordsMatchTheOpcodeTable : Prop :=
  ∀ w : Word, (∃ i, decode w = .ok i) ↔
    ∃ row ∈ [(0x00000000#32, 0xFFFFFFFF#32), (0x10000000#32, 0xFFFFFFFF#32),
        (0x20000000#32, 0xFFFFFFFF#32), (0x30000000#32, 0xFFFFFFFF#32), (0x40000000#32, 0xFFFFFFFF#32),
        (0x50000000#32, 0xFFFF0000#32), (0x60000000#32, 0xFFFFFFFC#32), (0x70000000#32, 0xFFFFFFFC#32),
        (0x80000000#32, 0xFFFFFFFE#32), (0x90000000#32, 0xFFFFFE00#32), (0xA0000000#32, 0xFFF00000#32),
        (0xB0000000#32, 0xFFFFFFC0#32)],
      w &&& row.2 = row.1 ∧ (row.1 = 0xA0000000#32 → w.toNat / 2 ^ 16 % 16 < 12)

/-- R71, R135: a word of the three illegal kinds, and no other, raises ILLEGAL_OP whatever the state, and has no
effect but the error recording. -/
def Obligations.IllegalWordOnlyRecordsIllegalOp : Prop :=
  (∀ w : Word, illegalKind w ∨ ∃ i, decode w = .ok i) ∧
  (∀ s : State, illegalKind (presented s).word →
    runWord exec (presented s).word s =
      .next { s with err := s.err ||| 0b000100#6, errInfo := 3#4, errWord := (presented s).word })

/-- Words of spec/95_test_vectors.md L2-E, at least one for each format, decode as tabled. -/
def Obligations.TabledWordsDecode : Prop :=
  decode 0x00000000#32 = .ok .nop ∧ decode 0x00000001#32 = .error .reservedBits ∧
  decode 0x10000000#32 = .ok .start ∧ decode 0x20000000#32 = .ok .frame ∧
  decode 0x30000000#32 = .ok .endStream ∧ decode 0x40000000#32 = .ok .stop ∧
  decode 0x50006400#32 = .ok (.inject 0#8 100#8) ∧ decode 0x50010000#32 = .error .reservedBits ∧
  decode 0x60000003#32 = .ok (.symbol .both) ∧ decode 0x70000002#32 = .ok (.edge false true) ∧
  decode 0x80000001#32 = .ok (.bit true) ∧ decode 0x900001FF#32 = .ok (.deriv .d1 255#8) ∧
  decode 0xA00BFFFF#32 = .ok (.cfgwr 0xB#4 65535#16) ∧ decode 0xA00C0000#32 = .error .reservedIndex ∧
  decode 0xB000003F#32 = .ok (.clrerr 0x3F#6) ∧ decode 0xC0000000#32 = .error .reservedOpcode

/-- R68, R103: the table of symbol codes, every code a symbol's, and the code's bits the two halves. -/
def Obligations.SymbolCodesSplitIntoHalves : Prop :=
  (Symbol.code .neither = 0b00#2 ∧ Symbol.code .signal = 0b01#2 ∧ Symbol.code .clock = 0b10#2 ∧
    Symbol.code .both = 0b11#2) ∧
  (∀ c : BitVec 2, (Symbol.ofCode c).code = c) ∧
  (∀ d : Symbol, signalHalf d = d.code.getLsbD 0 ∧ clockHalf d = d.code.getLsbD 1)

/-- R73: the assembly line of a legal operation assembles to that operation. -/
def Obligations.AssemblyLinesRoundTrip : Prop :=
  ∀ i : Instr, i.wellFormed = true → assembleLine (lineOf i) = some [i]

/-- R74: the SETREGION expansions, run in order, write the four coordinates of their region and nothing else. -/
def Obligations.SetRegionWritesTheRegion : Prop :=
  ∀ (s : State) (x0 x1 y0 y1 : Half),
    execAll (expandPseudo (.setRegion .sig x0 x1 y0 y1)) s =
      .next { s with cfg := { s.cfg with sigRegion := ⟨x0, x1, y0, y1⟩ } } ∧
    execAll (expandPseudo (.setRegion .clk x0 x1 y0 y1)) s =
      .next { s with cfg := { s.cfg with clkRegion := ⟨x0, x1, y0, y1⟩ } }

/-! ## The step -/

/-- R14, R59, R62: when the presented word decodes to `i`, a step is `exec i`, after which the operation is
consumed. That the port is a list in the state and that consuming an operation advances the model's position
counter is the model's own form (logs 2 and 7). -/
def Obligations.StepRunsTheDecodedOperation : Prop :=
  ∀ (s : State) (o : Operation) (rest : List PortEvent) (i : Instr),
    s.port = .op o :: rest → decode o.word = .ok i →
      step s =
        match exec i s with
        | .next t => .next { t with port := t.port.tail, position := t.position + 1 }
        | .fault r => .fault r
        | .refused r => .refused r

/-- R71, R132, R135: a step at a presented word of one of the three illegal kinds records ILLEGAL_OP, changes
nothing else of the OFD, and consumes the word: the next operation is taken from the port. That the port is a list
in the state and that consuming a word advances the model's position counter is the model's own form (logs 2 and
7). -/
def Obligations.StepConsumesAnIllegalWord : Prop :=
  ∀ (s : State) (o : Operation) (rest : List PortEvent), s.port = .op o :: rest → illegalKind o.word →
    step s = .next { s with
      err := s.err ||| 0b000100#6, errInfo := 3#4, errWord := o.word,
      port := rest, position := s.position + 1 }

/-- R149, R134: with nothing on the port the OFD holds all state; a change of SRC_AVAILABLE changes nothing but
the input. The form of the port is the model's (logs 2, 3 and 9). -/
def Obligations.StepWithoutAnOperation : Prop :=
  ∀ s : State,
    (s.port = [] → step s = .next s) ∧
    (∀ b rest, s.port = .source b :: rest →
      step s = .next { s with srcAvailable := b, port := rest })

/-- R48, R150: after RESET every configuration field, `ACTIVE`, every error field and every session field has its
power-on value, every register reads its stated power-on value, and the sink's history is left alone. That RESET
is an event of the port is the model's own form (log 8). -/
def Obligations.ResetRestoresPowerOnValues : Prop :=
  ∀ (s : State) (rest : List PortEvent), s.port = .reset :: rest →
    ∃ t, step s = .next t ∧ t.sink = s.sink ∧ t.active = false ∧
      t.err = 0#6 ∧ t.errInfo = 0#4 ∧ t.errWord = 0#32 ∧
      t.cfg = ⟨⟨0, 0, 0, 0⟩, ⟨0, 0, 0, 0⟩, .green, .red, 20, 60, 1, 5, 1000⟩ ∧
      t.ses = ⟨⟨⟨0, 0, 0⟩, false⟩, ⟨⟨0, 0, 0⟩, false⟩, [], [], .neither, false, .neither, false, [], false,
        false, false, [], 0, false, ⟨0, false, 0, false⟩, ⟨0, false, 0, false⟩⟩ ∧
      ∀ idx : BitVec 5, readReg t idx =
        if idx = 0x08#5 then 0x00000001#32
        else if idx = 0x09#5 then 0x00003C14#32
        else if idx = 0x0A#5 then 0x00000051#32
        else if idx = 0x0B#5 then 0x000003E8#32
        else if idx = 0x10#5 then (if t.srcAvailable then 0x00020000#32 else 0x00000000#32)
        else if idx = 0x1D#5 then 0x4F464401#32
        else 0x00000000#32

/-- No operation changes what is presented to the OFD: the port, the SRC_AVAILABLE level and every byte of every
pixel of the frame (R51: the frame is fixed for the whole operation; no operation writes it). The counters are
the model's (log 7). -/
def Obligations.OperationsLeaveTheirInputs : Prop :=
  ∀ (i : Instr) (s t : State), exec i s = .next t →
    t.port = s.port ∧ t.srcAvailable = s.srcAvailable ∧ t.position = s.position ∧
      t.powerCycle = s.powerCycle ∧
      (∀ a : Nat, Memory.read (currentFrame t).pixels a = Memory.read (currentFrame s).pixels a) ∧
      (∀ x y : Nat, pixRead (currentFrame t) x y = pixRead (currentFrame s) x y)

/-- R53: in no state does an operation read a pixel outside the frame. An operation stops only where the
environment pins an oracle answer outside the region, which R77 does not admit (the form of a pinned answer is
the model's, log 5); every other operation answers a next state. -/
def Obligations.OnlyAnInadmissibleOracleAnswerStops : Prop :=
  ∀ (i : Instr) (s : State),
    (∀ r, exec i s ≠ .fault r) ∧
    (∀ r, exec i s = .refused r →
      i = .frame ∧ r = .oracleOutsideRegion ∧ s.active = true ∧ ¬ answersInside s)

/-! ## Errors (spec/60_exceptions.md) -/

/-- R131, R132, R136, R139: where an error applies, the first in R139's order is raised, and the state afterwards
is the state before plus the three error fields; no event is emitted. That a CFGWR term with index 12 to 15, which no
word decodes to, raises ILLEGAL_OP in `exec` is the model's own case (log 14, DEDUCED from R71). -/
def Obligations.ErrorsArePreciseAndPrioritised : Prop :=
  ∀ (i : Instr) (s : State) (c : Nat), expectedError i s = some c →
    exec i s = .next { s with
      err := s.err ||| (1#6 <<< (c - 1))
      errInfo := BitVec.ofNat 4 c
      errWord := (presented s).word }

/-- R26, R130: an operation to which no error applies leaves ERR_INFO and ERR_WORD, and ERR too but for CLRERR. -/
def Obligations.NoErrorLeavesTheErrorFields : Prop :=
  ∀ (i : Instr) (s t : State), expectedError i s = none → exec i s = .next t →
    t.errInfo = s.errInfo ∧ t.errWord = s.errWord ∧
      ((∀ mask, i ≠ .clrerr mask) → t.err = s.err)

/-- R130: CLRERR clears exactly the selected flags, in either session state, and changes nothing else. -/
def Obligations.ClrerrClearsTheSelectedFlags : Prop :=
  ∀ (mask : BitVec 6) (s : State),
    ∃ e, exec (.clrerr mask) s = .next { s with err := e } ∧
      ∀ k, k < 6 → e.getLsbD k = (s.err.getLsbD k && !mask.getLsbD k)

/-! ## Session, configuration and control (spec/47_control_ops.md) -/

/-- R125: NOP has no effect, in either session state. -/
def Obligations.NopChangesNothing : Prop :=
  ∀ s : State, exec .nop s = .next s

/-- R49, R126: with SRC_AVAILABLE 1, START writes every session field as `SessionInit()` lists it and sets
`ACTIVE`, leaves configuration and error fields unchanged, and emits nothing, whether or not a session runs. -/
def Obligations.StartInitialisesTheSession : Prop :=
  ∀ s : State, s.srcAvailable = true →
    exec .start s = .next { s with
      active := true
      ses :=
        { sampleSig := ⟨⟨0, 0, 0⟩, false⟩, sampleClk := ⟨⟨0, 0, 0⟩, false⟩, qs := [], qc := [],
          rawSym := .neither, rawValid := false, debSym := .neither, debValid := false, win := [],
          prevClock := false, lastBit := false, lastBitValid := false, pend := [], lastByte := 0,
          lastByteValid := false, d0 := ⟨0, false, 0, false⟩, d1 := ⟨0, false, 0, false⟩ } }

/-- R127: END drops the pending bits, ends the session and emits EOS; every other field keeps its value. -/
def Obligations.EndDropsThePartialByteAndEmitsEos : Prop :=
  ∀ s : State, s.active = true →
    exec .endStream s = .next { s with
      active := false, ses := { s.ses with pend := [] }, sink := s.sink ++ [.eos] }

/-- R128: STOP drops the pending bits and ends the session with no event; every other field keeps its value. -/
def Obligations.StopDropsThePartialByteSilently : Prop :=
  ∀ s : State, s.active = true →
    exec .stop s = .next { s with active := false, ses := { s.ses with pend := [] } }

/-- R129 with R32 to R36: a legal CFGWR makes the register it names read as its operand and leaves every other
configuration register and every other field of the state. -/
def Obligations.CfgwrStoresTheNamedRegister : Prop :=
  ∀ (s : State) (idx : BitVec 4) (data : Half),
    idx.toNat < 12 → illegalValue idx data = false → (idx.toNat = 0xA → s.active = false) →
      ∃ c, exec (.cfgwr idx data) s = .next { s with cfg := c } ∧
        ∀ j : BitVec 5, j.toNat < 12 →
          readReg { s with cfg := c } j = if j.toNat = idx.toNat then data.setWidth 32 else readReg s j

/-- R15: no operation but CFGWR changes the configuration. -/
def Obligations.ConfigurationWrittenOnlyByCfgwr : Prop :=
  ∀ (i : Instr) (s t : State), exec i s = .next t → (∀ idx data, i ≠ .cfgwr idx data) → t.cfg = s.cfg

/-- R28 item 5, R137: no operation changes SMOOTH_LEN or DEB_LEN while a session is active. -/
def Obligations.WindowLengthsFixedDuringASession : Prop :=
  ∀ (i : Instr) (s t : State), s.active = true → exec i s = .next t →
    t.cfg.smoothLen = s.cfg.smoothLen ∧ t.cfg.debLen = s.cfg.debLen

/-- R16, R144: the session state is entered by START alone and left by END and STOP alone. -/
def Obligations.SessionsChangeOnlyByStartEndStop : Prop :=
  ∀ (i : Instr) (s t : State), exec i s = .next t → t.active ≠ s.active →
    (i = .start ∧ s.srcAvailable = true ∧ t.active = true) ∨
      ((i = .endStream ∨ i = .stop) ∧ t.active = false)

/-- R17, R18, R19, R20, R21, R22, R23, R24, R25: each session field is written only by the operations whose
stages own it, and by START. -/
def Obligations.SessionFieldsWrittenOnlyByTheirStages : Prop :=
  ∀ (i : Instr) (s t : State), exec i s = .next t → i ≠ .start →
    (i ≠ .frame → t.ses.sampleSig = s.ses.sampleSig ∧ t.ses.sampleClk = s.ses.sampleClk) ∧
    (i.opcode ∉ [.frame, .inject] → t.ses.qs = s.ses.qs ∧ t.ses.qc = s.ses.qc) ∧
    (i.opcode ∉ [.frame, .inject, .symbol] →
      t.ses.rawSym = s.ses.rawSym ∧ t.ses.rawValid = s.ses.rawValid ∧ t.ses.debSym = s.ses.debSym ∧
        t.ses.debValid = s.ses.debValid ∧ t.ses.win = s.ses.win) ∧
    (i.opcode ∉ [.frame, .inject, .symbol, .edge] →
      t.ses.prevClock = s.ses.prevClock ∧ t.ses.lastBit = s.ses.lastBit ∧
        t.ses.lastBitValid = s.ses.lastBitValid) ∧
    (i.opcode ∉ [.frame, .inject, .symbol, .edge, .bit] →
      t.ses.lastByte = s.ses.lastByte ∧ t.ses.lastByteValid = s.ses.lastByteValid) ∧
    (i.opcode ∉ [.frame, .inject, .symbol, .edge, .bit, .endStream, .stop] → t.ses.pend = s.ses.pend) ∧
    ((∀ v, i ≠ .deriv .d0 v) → t.ses.d0 = s.ses.d0) ∧
    ((∀ v, i ≠ .deriv .d1 v) → t.ses.d1 = s.ses.d1)

/-! ## Derivative units and classifier (spec/42_classifier.md) -/

/-- R96: DERIV keeps the value pushed; after an earlier push the difference is exact and valid, on the first push
it is 0 and not valid; the other unit and every other field are unchanged. -/
def Obligations.DerivKeepsTheExactDifference : Prop :=
  ∀ (s : State) (v : Byte), s.active = true →
    (∃ d : DerivState, exec (.deriv .d0 v) s = .next { s with ses := { s.ses with d0 := d } } ∧
      d.prev = v ∧ d.hasPrev = true ∧
      (s.ses.d0.hasPrev = true → d.valid = true ∧ d.diff.toInt = (v.toNat : Int) - s.ses.d0.prev.toNat) ∧
      (s.ses.d0.hasPrev = false → d.valid = false ∧ d.diff = 0)) ∧
    (∃ d : DerivState, exec (.deriv .d1 v) s = .next { s with ses := { s.ses with d1 := d } } ∧
      d.prev = v ∧ d.hasPrev = true ∧
      (s.ses.d1.hasPrev = true → d.valid = true ∧ d.diff.toInt = (v.toNat : Int) - s.ses.d1.prev.toNat) ∧
      (s.ses.d1.hasPrev = false → d.valid = false ∧ d.diff = 0))

/-- R90: the classifier's cross-multiplied tests are the comparisons of the means `mS = sS / nS` and
`mC = sC / nC`, in R90's order. -/
def Obligations.ClassifierComparesTheMeans : Prop :=
  ∀ (low high : Byte) (sS nS sC nC : Nat), 0 < nS → 0 < nC →
    ∀ mS mC : ℚ, mS = (sS : ℚ) / nS → mC = (sC : ℚ) / nC →
      (mS < low.toNat ∧ mC < low.toNat → classify low high ⟨sS, nS⟩ ⟨sC, nC⟩ = .neither) ∧
      (¬ (mS < low.toNat ∧ mC < low.toNat) → (high.toNat < mS ∧ high.toNat < mC) →
        classify low high ⟨sS, nS⟩ ⟨sC, nC⟩ = .both) ∧
      (¬ (mS < low.toNat ∧ mC < low.toNat) → ¬ (high.toNat < mS ∧ high.toNat < mC) → mS < mC →
        classify low high ⟨sS, nS⟩ ⟨sC, nC⟩ = .clock) ∧
      (¬ (mS < low.toNat ∧ mC < low.toNat) → ¬ (high.toNat < mS ∧ high.toNat < mC) → mC ≤ mS →
        classify low high ⟨sS, nS⟩ ⟨sC, nC⟩ = .signal)

/-! ## Byte assembler (spec/45_byte_assembler.md) -/

/-- R111 through BIT (R118): with fewer than 7 bits pending the bit is appended; the eighth bit completes the byte
whose bit `7 - k` is the `k`-th bit received, which is kept and emitted, and the buffer is cleared. Nothing else
changes. -/
def Obligations.BitAppendsOrCompletesTheByte : Prop :=
  ∀ (s : State) (b : Bool), s.active = true →
    (s.ses.pend.length < 7 →
      exec (.bit b) s = .next { s with ses := { s.ses with pend := s.ses.pend ++ [b] } }) ∧
    (s.ses.pend.length = 7 →
      ∃ v : Byte, (∀ k, k < 8 → v.getLsbD (7 - k) = (s.ses.pend ++ [b]).getD k false) ∧
        exec (.bit b) s = .next { s with
          ses := { s.ses with pend := [], lastByte := v, lastByteValid := true }
          sink := s.sink ++ [.byte v] })

/-- R112: `Convert` makes the first-received bit the most significant, and its accumulator form gives the same
value. -/
def Obligations.ConvertIsMostSignificantFirst : Prop :=
  ∀ p : List Bool, p.length = 8 →
    (∀ k, k < 8 → (convert p).getLsbD (7 - k) = p.getD k false) ∧
      (convert p).toNat = p.foldl (fun acc b => 2 * acc + b.toNat) 0

/-- R114, R117: from an empty buffer, any run of BIT operations emits one byte for every 8 bits, in order, each
with its first bit the most significant, and leaves the remaining bits pending. -/
def Obligations.BitStreamBecomesBytesInOrder : Prop :=
  ∀ (bits : List Bool) (s : State), s.active = true → s.ses.pend = [] →
    ∃ (t : State) (bytes : List Byte), execAll (bits.map Instr.bit) s = .next t ∧
      t.sink = s.sink ++ bytes.map SinkEvent.byte ∧ bytes.length = bits.length / 8 ∧
      (∀ n k, n < bytes.length → k < 8 → (bytes.getD n 0).getLsbD (7 - k) = bits.getD (8 * n + k) false) ∧
      t.ses.pend = bits.drop (8 * (bits.length / 8))

/-! ## Edge extractor (spec/44_edge_extractor.md) -/

/-- R104 through EDGE (R109): while the clock holds only LAST_BIT_VALID is written (with 0); when it toggles,
PREV_CLOCK follows, the signal bit is latched, and the assembler takes it as a BIT operation would. -/
def Obligations.EdgeLatchesOnAClockToggle : Prop :=
  ∀ (s : State) (sig clk : Bool), s.active = true →
    (clk = s.ses.prevClock →
      exec (.edge sig clk) s = .next { s with ses := { s.ses with lastBitValid := false } }) ∧
    (clk ≠ s.ses.prevClock →
      ∃ t, exec (.edge sig clk) s = .next t ∧
        exec (.bit sig) { s with ses := { s.ses with
          prevClock := clk, lastBit := sig, lastBitValid := true } } = .next t)

/-- R108: repeating one `(signal, clock)` pair emits a bit at most on the first push, and there iff its clock
differs from PREV_CLOCK before the run; every later push writes nothing but LAST_BIT_VALID, with 0. -/
def Obligations.RepeatedEdgesEmitNothingMore : Prop :=
  ∀ (s : State) (sig clk : Bool) (n : Nat), s.active = true →
    ∃ t, exec (.edge sig clk) s = .next t ∧
      (t.ses.lastBitValid = true ↔ clk ≠ s.ses.prevClock) ∧
      execAll (List.replicate (n + 2) (Instr.edge sig clk)) s =
        .next { t with ses := { t.ses with lastBitValid := false } }

/-! ## Debouncer (spec/43_debouncer.md) -/

/-- R97, R98: the debounced symbol has the highest count in the window, and among the symbols with that count its
latest occurrence is the most recent. -/
def Obligations.DebouncerPicksThePluralityLatestOnTies : Prop :=
  ∀ w : List Symbol, w ≠ [] →
    plurality w ∈ w ∧
    ∀ j : Symbol, w.count j ≤ w.count (plurality w) ∧
      (w.count j = w.count (plurality w) → j ≠ plurality w →
        w.reverse.idxOf (plurality w) < w.reverse.idxOf j)

/-- R102: SYMBOL pushes its symbol into the window, dropping the oldest if it is then too long, debounces, and
runs the extractor as EDGE would on the two halves. -/
def Obligations.SymbolDebouncesThenRunsTheEdgeStage : Prop :=
  ∀ (s : State) (r : Symbol) (w : List Symbol), s.active = true →
    w = (if s.ses.win.length + 1 ≤ s.cfg.debLen.toNat then s.ses.win ++ [r] else (s.ses.win ++ [r]).tail) →
      ∃ t, exec (.symbol r) s = .next t ∧
        exec (.edge ((plurality w).code.getLsbD 0) ((plurality w).code.getLsbD 1))
          { s with ses := { s.ses with
            rawSym := r, rawValid := true, win := w, debSym := plurality w, debValid := true } } = .next t

/-- R100: after a run of at least DEB_LEN pushes of one symbol the debounced symbol is that symbol. -/
def Obligations.DebouncerSettlesOnARun : Prop :=
  ∀ (s : State) (r : Symbol) (n : Nat), s.active = true → s.cfg.debLen ≠ 0 →
    s.ses.win.length ≤ s.cfg.debLen.toNat → s.cfg.debLen.toNat ≤ n →
      ∃ t, execAll (List.replicate n (Instr.symbol r)) s = .next t ∧ t.ses.debSym = r

/-- R160: when the window holds DEB_LEN = N copies of `a`, the output after `k` pushes of another symbol `b` is
`b` iff `2 k` is at least `N`, that is from the `ceil(N/2)`-th push on. -/
def Obligations.DebouncerDelayIsHalfTheWindow : Prop :=
  ∀ (s : State) (a b : Symbol) (k : Nat), s.active = true → s.cfg.debLen ≠ 0 → a ≠ b →
    s.ses.win = List.replicate s.cfg.debLen.toNat a → 0 < k →
      ∃ t, execAll (List.replicate k (Instr.symbol b)) s = .next t ∧
        t.ses.debSym = if s.cfg.debLen.toNat ≤ 2 * k then b else a

/-- R101 items 1 and 6: with DEB_LEN 1 or 2 every push returns the symbol pushed. -/
def Obligations.ShortDebouncersAreTransparent : Prop :=
  ∀ (s : State) (r : Symbol), s.active = true → (s.cfg.debLen = 1 ∨ s.cfg.debLen = 2) →
    s.ses.win.length ≤ s.cfg.debLen.toNat →
      ∃ t, exec (.symbol r) s = .next t ∧ t.ses.debSym = r

/-! ## Smoother and INJECT (spec/41_smoother.md, spec/46_pipeline_ops.md) -/

/-- R120, R122: INJECT pushes both smoothers, classifies the two smoothed values and goes on as SYMBOL would with
the classified symbol. -/
def Obligations.InjectSmoothsClassifiesThenRunsSymbol : Prop :=
  ∀ (s : State) (sv cv : Byte) (qs qc : List Byte), s.active = true →
    qs = (if s.ses.qs.length + 1 ≤ s.cfg.smoothLen.toNat then s.ses.qs ++ [sv] else (s.ses.qs ++ [sv]).tail) →
    qc = (if s.ses.qc.length + 1 ≤ s.cfg.smoothLen.toNat then s.ses.qc ++ [cv] else (s.ses.qc ++ [cv]).tail) →
      ∃ t, exec (.inject sv cv) s = .next t ∧
        exec (.symbol (classify s.cfg.low s.cfg.high
            ⟨(qs.map BitVec.toNat).sum, qs.length⟩ ⟨(qc.map BitVec.toNat).sum, qc.length⟩))
          { s with ses := { s.ses with qs := qs, qc := qc } } = .next t

/-- R86: from empty windows, after `k` pushes the smoothers hold all of them while `k` is at most SMOOTH_LEN = N
and the last N after that, and the smoothed values are their sums with their counts. -/
def Obligations.SmootherHoldsTheLastPushes : Prop :=
  ∀ (s : State) (vs : List (Byte × Byte)), s.active = true → s.ses.qs = [] → s.ses.qc = [] →
    ∃ t, execAll (vs.map (fun v => Instr.inject v.1 v.2)) s = .next t ∧
      smoothed t.ses.qs =
        ⟨(((vs.map (fun v => v.1.toNat)).drop (vs.length - s.cfg.smoothLen.toNat))).sum,
          min vs.length s.cfg.smoothLen.toNat⟩ ∧
      smoothed t.ses.qc =
        ⟨(((vs.map (fun v => v.2.toNat)).drop (vs.length - s.cfg.smoothLen.toNat))).sum,
          min vs.length s.cfg.smoothLen.toNat⟩

/-- R161: each smoothed value lags its channel. Where the signal window is full of `a`, after `k` at most
SMOOTH_LEN = L pushes of `b` its sum is `(L - k) * a + k * b` over a count of L; the same for the clock window, full
of `c`, and pushes of `d`. -/
def Obligations.SmootherStepLag : Prop :=
  ∀ (s : State) (a b c d : Byte) (k : Nat), s.active = true → k ≤ s.cfg.smoothLen.toNat →
    ∃ t, execAll (List.replicate k (Instr.inject b d)) s = .next t ∧
      (s.ses.qs = List.replicate s.cfg.smoothLen.toNat a →
        smoothed t.ses.qs =
          ⟨(s.cfg.smoothLen.toNat - k) * a.toNat + k * b.toNat, s.cfg.smoothLen.toNat⟩) ∧
      (s.ses.qc = List.replicate s.cfg.smoothLen.toNat c →
        smoothed t.ses.qc =
          ⟨(s.cfg.smoothLen.toNat - k) * c.toNat + k * d.toNat, s.cfg.smoothLen.toNat⟩)

/-- R85: with SMOOTH_LEN = 1 every push returns the value pushed, with count 1. -/
def Obligations.SmootherOfLengthOnePassesThrough : Prop :=
  ∀ (s : State) (sv cv : Byte), s.active = true → s.cfg.smoothLen = 1 → s.ses.qs.length ≤ 1 →
    s.ses.qc.length ≤ 1 →
      ∃ t, exec (.inject sv cv) s = .next t ∧ smoothed t.ses.qs = ⟨sv.toNat, 1⟩ ∧
        smoothed t.ses.qc = ⟨cv.toNat, 1⟩

/-! ## FRAME and the sampler (spec/40_region_sampler.md, spec/46_pipeline_ops.md) -/

/-- R78, R121: in a session, with both regions valid for the frame and every pinned oracle answer admissible, FRAME
keeps the truncated means of both regions' draws, all of them inside their regions, and goes on as INJECT would
with the selected channels. The oracle's form is the model's (logs 4 and 5). -/
def Obligations.FrameSamplesThenRunsInject : Prop :=
  ∀ s : State, s.active = true → s.cfg.nsamples ≠ 0 →
    outsideFrame s.cfg.sigRegion (currentFrame s) = false →
    outsideFrame s.cfg.clkRegion (currentFrame s) = false → answersInside s →
      (∀ id k, k < s.cfg.nsamples.toNat →
        regionContains (regionOf s.cfg id) (drawAnswer s id k) = true) ∧
      ∃ (t : State) (cs cc : Pixel), exec .frame s = .next t ∧
        isMeanOfDraws s .sig cs ∧ isMeanOfDraws s .clk cc ∧
        exec (.inject (cs.lane s.cfg.sigCh) (cc.lane s.cfg.clkCh))
          { s with ses := { s.ses with sampleSig := ⟨cs, true⟩, sampleClk := ⟨cc, true⟩ } } = .next t

/-- R81 item 1: where every pixel of each region has one value, FRAME's result is exactly those values whatever the
oracle answers. The oracle's form, with its pinned answers, is the model's (logs 4 and 5). -/
def Obligations.UniformRegionsDoNotDependOnTheOracle : Prop :=
  ∀ (s : State) (p q : Pixel), s.active = true → s.cfg.nsamples ≠ 0 →
    outsideFrame s.cfg.sigRegion (currentFrame s) = false →
    outsideFrame s.cfg.clkRegion (currentFrame s) = false → answersInside s →
    (∀ x y, regionContains s.cfg.sigRegion ⟨x, y⟩ = true → pixRead (currentFrame s) x y = some p) →
    (∀ x y, regionContains s.cfg.clkRegion ⟨x, y⟩ = true → pixRead (currentFrame s) x y = some q) →
      ∃ t, exec .frame s = .next t ∧ t.ses.sampleSig = ⟨p, true⟩ ∧ t.ses.sampleClk = ⟨q, true⟩ ∧
        exec (.inject (p.lane s.cfg.sigCh) (q.lane s.cfg.clkCh))
          { s with ses := { s.ses with sampleSig := ⟨p, true⟩, sampleClk := ⟨q, true⟩ } } = .next t

/-- R77, by the model's form of the oracle (log 4): a free answer is always brought inside the region, and every
coordinate of the region is such an answer. -/
def Obligations.OracleAdmitsExactlyTheRegion : Prop :=
  ∀ r : Region, r.x0.toNat < r.x1.toNat → r.y0.toNat < r.y1.toNat →
    ∀ c : Coord, regionContains r c = true ↔ ∃ raw : Coord, foldIntoRegion r raw = c

/-! ## The byte sink -/

/-- R59 item 4, R115: an operation emits at most one event, after those already emitted; outside a session it emits
none, and only END emits EOS. -/
def Obligations.AtMostOneEventPerOperation : Prop :=
  ∀ (i : Instr) (s t : State), exec i s = .next t →
    (t.sink = s.sink ∨ ∃ e, t.sink = s.sink ++ [e]) ∧
    (s.active = false → t.sink = s.sink) ∧
    (t.sink = s.sink ++ [.eos] → i = .endStream)

/-! ## Invariants (spec/10_state.md R28) -/

/-- R28, R137: every step keeps the OFD's invariant, from every state that meets it. Items 1 and 2 of R28 stand in it
as log 10 says. -/
def Obligations.StepKeepsTheInvariant : Prop :=
  ∀ s t : State, s.Inv → step s = .next t → t.Inv

/-- R48: the power-on state meets the invariant. -/
def Obligations.PowerOnMeetsTheInvariant : Prop := State.reset.Inv

/-! ## Determinism and isolation -/

/-- R123: a script of INJECT, SYMBOL, EDGE and BIT gives the same session fields and the same events from any two
states that agree on the session, the thresholds and the window lengths: regions, channels, NSAMPLES, error fields,
SRC_AVAILABLE, frames and the draw oracle play no part. -/
def Obligations.InjectionDependsOnTheSessionAlone : Prop :=
  ∀ (is : List Instr) (s u : State), (∀ i ∈ is, isInjection i = true) →
    s.active = u.active → s.ses = u.ses → s.cfg.low = u.cfg.low → s.cfg.high = u.cfg.high →
    s.cfg.smoothLen = u.cfg.smoothLen → s.cfg.debLen = u.cfg.debLen →
      ∃ (t v : State) (events : List SinkEvent), execAll is s = .next t ∧ execAll is u = .next v ∧
        t.ses = v.ses ∧ t.sink = s.sink ++ events ∧ v.sink = u.sink ++ events

/-- R126, R151, R159: what came before a START leaves no trace in the session: from any two states with the same
configuration and SRC_AVAILABLE 1, START and any operations but FRAME give the same session fields, ACTIVE and
configuration and the same events. The three error fields survive START (R126), and nothing is said of FRAME, whose
result rests on its frame and its draws too. -/
def Obligations.RestartForgetsThePast : Prop :=
  ∀ (is : List Instr) (s u : State), Instr.frame ∉ is → s.cfg = u.cfg →
    s.srcAvailable = true → u.srcAvailable = true →
      ∃ (t v : State) (events : List SinkEvent), execAll (.start :: is) s = .next t ∧
        execAll (.start :: is) u = .next v ∧ t.ses = v.ses ∧ t.active = v.active ∧ t.cfg = v.cfg ∧
        t.sink = s.sink ++ events ∧ v.sink = u.sink ++ events

/-! ## The register read port (spec/10_state.md) -/

/-- R38: the fields of STATUS, and its power-on value. -/
def Obligations.StatusRegisterFields : Prop :=
  (∀ b, readReg (State.reset.setSource b) 0x10 = if b then 0x00020000#32 else 0x00000000#32) ∧
  ∀ s : State, s.ses.pend.length ≤ 7 → s.ses.win.length ≤ 15 →
    (readReg s 0x10).getLsbD 0 = s.active ∧ (readReg s 0x10).getLsbD 1 = s.ses.prevClock ∧
    ((readReg s 0x10).extractLsb' 2 3).toNat = s.ses.pend.length ∧
    (readReg s 0x10).extractLsb' 5 2 = s.ses.rawSym.code ∧ (readReg s 0x10).getLsbD 7 = s.ses.rawValid ∧
    (readReg s 0x10).extractLsb' 8 2 = s.ses.debSym.code ∧ (readReg s 0x10).getLsbD 10 = s.ses.debValid ∧
    (readReg s 0x10).getLsbD 11 = s.ses.lastBit ∧ (readReg s 0x10).getLsbD 12 = s.ses.lastBitValid ∧
    ((readReg s 0x10).extractLsb' 13 4).toNat = s.ses.win.length ∧
    (readReg s 0x10).getLsbD 17 = s.srcAvailable ∧ (readReg s 0x10).extractLsb' 18 14 = 0

/-- R41, with R29: SMOOTH_SIG and SMOOTH_CLK show SUM and CNT of their windows exactly, and 0 above them; both are
0 at power-on. -/
def Obligations.SmootherRegistersShowSumAndCount : Prop :=
  (readReg State.reset 0x14 = 0 ∧ readReg State.reset 0x15 = 0) ∧
  ∀ s : State, s.ses.qs.length ≤ 15 → s.ses.qc.length ≤ 15 →
    ((readReg s 0x14).extractLsb' 0 12).toNat = (s.ses.qs.map BitVec.toNat).sum ∧
    ((readReg s 0x14).extractLsb' 12 4).toNat = s.ses.qs.length ∧ (readReg s 0x14).extractLsb' 16 16 = 0 ∧
    ((readReg s 0x15).extractLsb' 0 12).toNat = (s.ses.qc.map BitVec.toNat).sum ∧
    ((readReg s 0x15).extractLsb' 12 4).toNat = s.ses.qc.length ∧ (readReg s 0x15).extractLsb' 16 16 = 0

/-- R23, R42: PENDING shows PEND_ACC, the bits received as a number with the first-received bit the most
significant, in bits 6 to 0 and 0 above them, and is 0 at power-on. R30: with PEND_CNT it determines the pending
bits. -/
def Obligations.PendingRegistersDetermineTheBits : Prop :=
  (readReg State.reset 0x16 = 0) ∧
  (∀ s : State, s.ses.pend.length ≤ 7 →
    ((readReg s 0x16).extractLsb' 0 7).toNat =
      ((List.range s.ses.pend.length).map (fun k =>
        (s.ses.pend.getD k false).toNat * 2 ^ (s.ses.pend.length - 1 - k))).sum ∧
    (∀ k, k < s.ses.pend.length →
      (readReg s 0x16).getLsbD (s.ses.pend.length - 1 - k) = s.ses.pend.getD k false) ∧
    (readReg s 0x16).extractLsb' 7 25 = 0) ∧
  ∀ s u : State, s.ses.pend.length ≤ 7 → u.ses.pend.length ≤ 7 →
    (readReg s 0x10).extractLsb' 2 3 = (readReg u 0x10).extractLsb' 2 3 → readReg s 0x16 = readReg u 0x16 →
      s.ses.pend = u.ses.pend

/-- R45: DEB_WIN shows every symbol of the window, the oldest lowest, and 0 in every other bit; STATUS shows their
count; DEB_WIN is 0 at power-on. -/
def Obligations.DebouncerWindowIsReadable : Prop :=
  readReg State.reset 0x1A = 0 ∧
  ∀ s : State, s.ses.win.length ≤ 15 →
    ((readReg s 0x10).extractLsb' 13 4).toNat = s.ses.win.length ∧
    (∀ k, k < s.ses.win.length →
      (readReg s 0x1A).extractLsb' (2 * k) 2 = (s.ses.win.getD k .neither).code) ∧
    (∀ j, 2 * s.ses.win.length ≤ j → (readReg s 0x1A).getLsbD j = false)

/-- R44: the fields of DERIV0 and DERIV1; bits 15 to 0 show the signed difference, `DIFF` itself in bits 8 to 0;
both are 0 at power-on. -/
def Obligations.DerivativeRegisterFields : Prop :=
  (readReg State.reset 0x18 = 0 ∧ readReg State.reset 0x19 = 0) ∧
  ∀ s : State,
    ((readReg s 0x18).extractLsb' 0 9 = s.ses.d0.diff ∧ (readReg s 0x19).extractLsb' 0 9 = s.ses.d1.diff) ∧
    (((readReg s 0x18).extractLsb' 0 16).toInt = s.ses.d0.diff.toInt ∧
      (readReg s 0x18).getLsbD 16 = s.ses.d0.valid ∧ (readReg s 0x18).getLsbD 17 = s.ses.d0.hasPrev ∧
      (readReg s 0x18).extractLsb' 18 6 = 0 ∧ (readReg s 0x18).extractLsb' 24 8 = s.ses.d0.prev) ∧
    (((readReg s 0x19).extractLsb' 0 16).toInt = s.ses.d1.diff.toInt ∧
      (readReg s 0x19).getLsbD 16 = s.ses.d1.valid ∧ (readReg s 0x19).getLsbD 17 = s.ses.d1.hasPrev ∧
      (readReg s 0x19).extractLsb' 18 6 = 0 ∧ (readReg s 0x19).extractLsb' 24 8 = s.ses.d1.prev)

/-- R39, R40, R43, R46, R47: the fields of the other read-only registers, and the ID constant; R37: the reserved
indices read 0. -/
def Obligations.OtherReadOnlyRegisters : Prop :=
  ∀ s : State,
    ((readReg s 0x11).extractLsb' 0 6 = s.err ∧ (readReg s 0x11).extractLsb' 6 26 = 0) ∧
    ((readReg s 0x12).extractLsb' 0 8 = s.ses.sampleSig.color.ch0 ∧
      (readReg s 0x12).extractLsb' 8 8 = s.ses.sampleSig.color.ch1 ∧
      (readReg s 0x12).extractLsb' 16 8 = s.ses.sampleSig.color.ch2 ∧
      (readReg s 0x12).getLsbD 24 = s.ses.sampleSig.valid ∧ (readReg s 0x12).extractLsb' 25 7 = 0) ∧
    ((readReg s 0x13).extractLsb' 0 8 = s.ses.sampleClk.color.ch0 ∧
      (readReg s 0x13).extractLsb' 8 8 = s.ses.sampleClk.color.ch1 ∧
      (readReg s 0x13).extractLsb' 16 8 = s.ses.sampleClk.color.ch2 ∧
      (readReg s 0x13).getLsbD 24 = s.ses.sampleClk.valid ∧ (readReg s 0x13).extractLsb' 25 7 = 0) ∧
    ((readReg s 0x17).extractLsb' 0 8 = s.ses.lastByte ∧
      (readReg s 0x17).getLsbD 8 = s.ses.lastByteValid ∧ (readReg s 0x17).extractLsb' 9 23 = 0) ∧
    ((readReg s 0x1B).extractLsb' 0 4 = s.errInfo ∧ (readReg s 0x1B).extractLsb' 4 28 = 0) ∧
    readReg s 0x1C = s.errWord ∧ readReg s 0x1D = 0x4F464401#32 ∧
    (∀ idx ∈ [0x0C#5, 0x0D#5, 0x0E#5, 0x0F#5, 0x1E#5, 0x1F#5], readReg s idx = 0)
end

