-- ==== Sys2Proof/Laws/Memory.lean ====
section
/-! SUPPORT. The laws of the frame's pixel bytes: read after write, the canonical form, and equal reads mean
equal data. -/

namespace Sys2Proof.Machine

/-- A byte reads as it was written. -/
theorem Memory.read_write_same (m : Memory) (k : Nat) (v : Byte) (h : Memory.wf m) :
    Memory.read (Memory.write m k v) k = v := by
  induction m with
  | nil =>
    by_cases hv : v = Memory.unlisted <;> simp [Memory.write, Memory.read, hv]
  | cons c rest ih =>
    obtain ⟨a, b⟩ := c
    obtain ⟨hp, hb⟩ := h
    rw [List.pairwise_cons] at hp
    have hrest : Memory.wf rest := ⟨hp.2, fun c hc => hb c (List.mem_cons_of_mem _ hc)⟩
    have absent : ∀ j : Nat, j ≤ a → Memory.read rest j = Memory.unlisted := by
      intro j hj
      have key : ∀ l : Memory, (∀ c ∈ l, a < c.1) → Memory.read l j = Memory.unlisted := by
        intro l hl
        induction l with
        | nil => rfl
        | cons d l ihl =>
          have hd : a < d.1 := hl d List.mem_cons_self
          have hne : ¬ d.1 = j := by omega
          simp only [Memory.read, if_neg hne]
          exact ihl (fun c hc => hl c (List.mem_cons_of_mem _ hc))
      exact key rest (fun c hc => hp.1 c hc)
    by_cases hlt : k < a
    · have hne : ¬ a = k := by omega
      by_cases hv : v = Memory.unlisted
      · simp [Memory.write, hlt, hv, Memory.read, hne, absent k (by omega)]
      · simp [Memory.write, hlt, hv, Memory.read]
    · by_cases heq : k = a
      · subst heq
        by_cases hv : v = Memory.unlisted
        · simp [Memory.write, hv, absent k le_rfl]
        · simp [Memory.write, hv, Memory.read]
      · have hne : ¬ a = k := fun h => heq h.symm
        simp [Memory.write, hlt, heq, Memory.read, hne, ih hrest]

/-- A write leaves every other byte alone. -/
theorem Memory.read_write_other (m : Memory) (k j : Nat) (v : Byte) (hkj : j ≠ k) (h : Memory.wf m) :
    Memory.read (Memory.write m k v) j = Memory.read m j := by
  have hkj' : ¬ k = j := fun e => hkj e.symm
  induction m with
  | nil =>
    by_cases hv : v = Memory.unlisted <;> simp [Memory.write, Memory.read, hv, hkj']
  | cons c rest ih =>
    obtain ⟨a, b⟩ := c
    obtain ⟨hp, hb⟩ := h
    rw [List.pairwise_cons] at hp
    have hrest : Memory.wf rest := ⟨hp.2, fun c hc => hb c (List.mem_cons_of_mem _ hc)⟩
    by_cases hlt : k < a
    · by_cases hv : v = Memory.unlisted <;> simp [Memory.write, hlt, hv, Memory.read, hkj']
    · by_cases heq : k = a
      · subst heq
        by_cases hv : v = Memory.unlisted <;> simp [Memory.write, hv, Memory.read, hkj']
      · by_cases haj : a = j
        · rw [Memory.write, if_neg hlt, if_neg heq]
          simp [Memory.read, haj]
        · simp [Memory.write, hlt, heq, Memory.read, haj, ih hrest]

/-- The cells of a write are the old ones and the new one. -/
theorem Memory.mem_write (m : Memory) (k : Nat) (v : Byte) (c : Host.Cell)
    (h : c ∈ Memory.write m k v) : c = (k, v) ∧ v ≠ Memory.unlisted ∨ c ∈ m := by
  induction m with
  | nil =>
    by_cases hv : v = Memory.unlisted
    · simp [Memory.write, hv] at h
    · simp [Memory.write, hv] at h
      exact Or.inl ⟨h, hv⟩
  | cons d rest ih =>
    obtain ⟨a, b⟩ := d
    by_cases hlt : k < a
    · by_cases hv : v = Memory.unlisted
      · simp only [Memory.write, if_pos hlt, if_pos hv] at h
        exact Or.inr h
      · simp only [Memory.write, if_pos hlt, if_neg hv, List.mem_cons] at h
        rcases h with h | h
        · exact Or.inl ⟨h, hv⟩
        · exact Or.inr (List.mem_cons.mpr h)
    · by_cases heq : k = a
      · by_cases hv : v = Memory.unlisted
        · simp only [Memory.write, if_neg hlt, if_pos heq, if_pos hv] at h
          exact Or.inr (List.mem_cons_of_mem _ h)
        · simp only [Memory.write, if_neg hlt, if_pos heq, if_neg hv, List.mem_cons] at h
          rcases h with h | h
          · exact Or.inl ⟨h, hv⟩
          · exact Or.inr (List.mem_cons_of_mem _ h)
      · simp only [Memory.write, if_neg hlt, if_neg heq, List.mem_cons] at h
        rcases h with h | h
        · exact Or.inr (List.mem_cons.mpr (Or.inl h))
        · rcases ih h with h | h
          · exact Or.inl h
          · exact Or.inr (List.mem_cons_of_mem _ h)

/-- A write keeps the canonical form. -/
theorem Memory.write_wf (m : Memory) (k : Nat) (v : Byte) (h : Memory.wf m) :
    Memory.wf (Memory.write m k v) := by
  refine ⟨?_, fun c hc => ?_⟩
  · induction m with
    | nil => by_cases hv : v = Memory.unlisted <;> simp [Memory.write, hv]
    | cons d rest ih =>
      obtain ⟨a, b⟩ := d
      obtain ⟨hp, hb⟩ := h
      rw [List.pairwise_cons] at hp
      have hrest : Memory.wf rest := ⟨hp.2, fun c hc => hb c (List.mem_cons_of_mem _ hc)⟩
      by_cases hlt : k < a
      · by_cases hv : v = Memory.unlisted
        · simp only [Memory.write, if_pos hlt, if_pos hv]
          exact List.pairwise_cons.mpr hp
        · simp only [Memory.write, if_pos hlt, if_neg hv]
          refine List.pairwise_cons.mpr ⟨fun c hc => ?_, List.pairwise_cons.mpr hp⟩
          rcases List.mem_cons.mp hc with hc | hc
          · subst hc
            exact hlt
          · exact lt_trans hlt (hp.1 c hc)
      · by_cases heq : k = a
        · by_cases hv : v = Memory.unlisted
          · simp only [Memory.write, if_neg hlt, if_pos heq, if_pos hv]
            exact hp.2
          · simp only [Memory.write, if_neg hlt, if_pos heq, if_neg hv]
            exact List.pairwise_cons.mpr ⟨fun c hc => heq ▸ hp.1 c hc, hp.2⟩
        · simp only [Memory.write, if_neg hlt, if_neg heq]
          refine List.pairwise_cons.mpr ⟨fun c hc => ?_, ih hrest⟩
          rcases Memory.mem_write rest k v c hc with ⟨hc, _⟩ | hc
          · subst hc
            exact lt_of_le_of_ne (not_lt.mp hlt) (fun e => heq e.symm)
          · exact hp.1 c hc
  · rcases Memory.mem_write m k v c hc with ⟨hc, hv⟩ | hc
    · subst hc
      exact hv
    · exact h.2 c hc

/-- A pixel write keeps the canonical bytes. -/
theorem setPixel_pixels_wf (f : Frame) (x y : Nat) (p : Pixel) (h : Memory.wf f.pixels) :
    Memory.wf (setPixel f x y p).pixels := by
  unfold setPixel
  split
  · exact Memory.write_wf _ _ _ (Memory.write_wf _ _ _ (Memory.write_wf _ _ _ h))
  · exact h

/-- A pixel write keeps a frame canonical: its cells belong to the pixel written. -/
theorem setPixel_wf (f : Frame) (x y : Nat) (p : Pixel) (h : Frame.wf f) : Frame.wf (setPixel f x y p) := by
  refine ⟨setPixel_pixels_wf f x y p h.1, ?_⟩
  unfold setPixel
  split
  · rename_i hin
    have hin' := hin
    simp only [Frame.inBounds, Bool.and_eq_true, decide_eq_true_eq] at hin'
    have hw : x < 65536 := lt_trans hin'.1 f.width.isLt
    have col : ∀ ch, ch < 3 → pixelAddr x y ch / 3 % 65536 = x ∧ pixelAddr x y ch / 3 / 65536 = y := by
      intro ch hch
      unfold pixelAddr
      omega
    intro c hc
    have here : ∀ ch v, ch < 3 → c = (pixelAddr x y ch, v) →
        f.inBounds (c.1 / 3 % 65536) (c.1 / 3 / 65536) = true := by
      intro ch v hch hcv
      rw [hcv, (col ch hch).1, (col ch hch).2]
      exact hin
    rcases Memory.mem_write _ _ _ c hc with ⟨hc, _⟩ | hc
    · exact here 2 _ (by omega) hc
    · rcases Memory.mem_write _ _ _ c hc with ⟨hc, _⟩ | hc
      · exact here 1 _ (by omega) hc
      · rcases Memory.mem_write _ _ _ c hc with ⟨hc, _⟩ | hc
        · exact here 0 _ (by omega) hc
        · exact h.2 c hc
  · exact h.2

/-- A pixel reads as it was written. -/
theorem pixRead_setPixel (f : Frame) (x y : Nat) (p : Pixel) (h : Memory.wf f.pixels)
    (hin : f.inBounds x y = true) : pixRead (setPixel f x y p) x y = some p := by
  have w0 := Memory.write_wf f.pixels (pixelAddr x y 0) p.ch0 h
  have w1 := Memory.write_wf _ (pixelAddr x y 1) p.ch1 w0
  have n01 : pixelAddr x y 0 ≠ pixelAddr x y 1 := by unfold pixelAddr; omega
  have n02 : pixelAddr x y 0 ≠ pixelAddr x y 2 := by unfold pixelAddr; omega
  have n12 : pixelAddr x y 1 ≠ pixelAddr x y 2 := by unfold pixelAddr; omega
  have hb : (setPixel f x y p).inBounds x y = true := by
    unfold setPixel
    rw [if_pos hin]
    exact hin
  unfold pixRead
  rw [if_pos hb]
  unfold setPixel
  rw [if_pos hin]
  simp only
  rw [Memory.read_write_same _ _ _ w1, Memory.read_write_other _ _ _ _ n12 w1,
    Memory.read_write_same _ _ _ w0, Memory.read_write_other _ _ _ _ n02 w1,
    Memory.read_write_other _ _ _ _ n01 w0, Memory.read_write_same _ _ _ h]

/-- The frame of no operation is canonical. -/
theorem absent_frame_wf : Frame.wf ⟨0#16, 0#16, []⟩ := by decide

/-- Inside the frame a pixel read answers. -/
theorem pixRead_isSome (f : Frame) (x y : Nat) (h : f.inBounds x y = true) :
    pixRead f x y = some ⟨Memory.read f.pixels (pixelAddr x y 0), Memory.read f.pixels (pixelAddr x y 1),
      Memory.read f.pixels (pixelAddr x y 2)⟩ := by
  unfold pixRead
  rw [if_pos h]

end Sys2Proof.Machine
end

