-- ==== Sys2Proof/Laws/State.lean ====
section
/-! SUPPORT. One lemma per field of `State` per named update of Machine/Ops.lean, and what the updates leave of
the presented operation, so that no proof unfolds a record update. -/

namespace Sys2Proof.Machine

variable (s : State)

/-! ## `setCfg` -/

@[simp] theorem State.setCfg_cfg (c : Configuration) : (s.setCfg c).cfg = c := rfl
@[simp] theorem State.setCfg_active (c : Configuration) : (s.setCfg c).active = s.active := rfl
@[simp] theorem State.setCfg_ses (c : Configuration) : (s.setCfg c).ses = s.ses := rfl
@[simp] theorem State.setCfg_err (c : Configuration) : (s.setCfg c).err = s.err := rfl
@[simp] theorem State.setCfg_errInfo (c : Configuration) : (s.setCfg c).errInfo = s.errInfo := rfl
@[simp] theorem State.setCfg_errWord (c : Configuration) : (s.setCfg c).errWord = s.errWord := rfl
@[simp] theorem State.setCfg_srcAvailable (c : Configuration) : (s.setCfg c).srcAvailable = s.srcAvailable := rfl
@[simp] theorem State.setCfg_sink (c : Configuration) : (s.setCfg c).sink = s.sink := rfl
@[simp] theorem State.setCfg_port (c : Configuration) : (s.setCfg c).port = s.port := rfl
@[simp] theorem State.setCfg_position (c : Configuration) : (s.setCfg c).position = s.position := rfl
@[simp] theorem State.setCfg_powerCycle (c : Configuration) : (s.setCfg c).powerCycle = s.powerCycle := rfl

@[simp] theorem presented_setCfg (c : Configuration) : presented (s.setCfg c) = presented s := rfl
@[simp] theorem currentFrame_setCfg (c : Configuration) : currentFrame (s.setCfg c) = currentFrame s := rfl

/-! ## `setActive` -/

@[simp] theorem State.setActive_cfg (b : Bool) : (s.setActive b).cfg = s.cfg := rfl
@[simp] theorem State.setActive_active (b : Bool) : (s.setActive b).active = b := rfl
@[simp] theorem State.setActive_ses (b : Bool) : (s.setActive b).ses = s.ses := rfl
@[simp] theorem State.setActive_err (b : Bool) : (s.setActive b).err = s.err := rfl
@[simp] theorem State.setActive_errInfo (b : Bool) : (s.setActive b).errInfo = s.errInfo := rfl
@[simp] theorem State.setActive_errWord (b : Bool) : (s.setActive b).errWord = s.errWord := rfl
@[simp] theorem State.setActive_srcAvailable (b : Bool) : (s.setActive b).srcAvailable = s.srcAvailable := rfl
@[simp] theorem State.setActive_sink (b : Bool) : (s.setActive b).sink = s.sink := rfl
@[simp] theorem State.setActive_port (b : Bool) : (s.setActive b).port = s.port := rfl
@[simp] theorem State.setActive_position (b : Bool) : (s.setActive b).position = s.position := rfl
@[simp] theorem State.setActive_powerCycle (b : Bool) : (s.setActive b).powerCycle = s.powerCycle := rfl

@[simp] theorem presented_setActive (b : Bool) : presented (s.setActive b) = presented s := rfl
@[simp] theorem currentFrame_setActive (b : Bool) : currentFrame (s.setActive b) = currentFrame s := rfl

/-! ## `setSes` -/

@[simp] theorem State.setSes_cfg (x : Session) : (s.setSes x).cfg = s.cfg := rfl
@[simp] theorem State.setSes_active (x : Session) : (s.setSes x).active = s.active := rfl
@[simp] theorem State.setSes_ses (x : Session) : (s.setSes x).ses = x := rfl
@[simp] theorem State.setSes_err (x : Session) : (s.setSes x).err = s.err := rfl
@[simp] theorem State.setSes_errInfo (x : Session) : (s.setSes x).errInfo = s.errInfo := rfl
@[simp] theorem State.setSes_errWord (x : Session) : (s.setSes x).errWord = s.errWord := rfl
@[simp] theorem State.setSes_srcAvailable (x : Session) : (s.setSes x).srcAvailable = s.srcAvailable := rfl
@[simp] theorem State.setSes_sink (x : Session) : (s.setSes x).sink = s.sink := rfl
@[simp] theorem State.setSes_port (x : Session) : (s.setSes x).port = s.port := rfl
@[simp] theorem State.setSes_position (x : Session) : (s.setSes x).position = s.position := rfl
@[simp] theorem State.setSes_powerCycle (x : Session) : (s.setSes x).powerCycle = s.powerCycle := rfl

@[simp] theorem presented_setSes (x : Session) : presented (s.setSes x) = presented s := rfl
@[simp] theorem currentFrame_setSes (x : Session) : currentFrame (s.setSes x) = currentFrame s := rfl

/-! ## `setErrors` -/

@[simp] theorem State.setErrors_cfg (e : BitVec 6) (i : BitVec 4) (w : Word) : (s.setErrors e i w).cfg = s.cfg := rfl
@[simp] theorem State.setErrors_active (e : BitVec 6) (i : BitVec 4) (w : Word) : (s.setErrors e i w).active = s.active := rfl
@[simp] theorem State.setErrors_ses (e : BitVec 6) (i : BitVec 4) (w : Word) : (s.setErrors e i w).ses = s.ses := rfl
@[simp] theorem State.setErrors_err (e : BitVec 6) (i : BitVec 4) (w : Word) : (s.setErrors e i w).err = e := rfl
@[simp] theorem State.setErrors_errInfo (e : BitVec 6) (i : BitVec 4) (w : Word) : (s.setErrors e i w).errInfo = i := rfl
@[simp] theorem State.setErrors_errWord (e : BitVec 6) (i : BitVec 4) (w : Word) : (s.setErrors e i w).errWord = w := rfl
@[simp] theorem State.setErrors_srcAvailable (e : BitVec 6) (i : BitVec 4) (w : Word) : (s.setErrors e i w).srcAvailable = s.srcAvailable := rfl
@[simp] theorem State.setErrors_sink (e : BitVec 6) (i : BitVec 4) (w : Word) : (s.setErrors e i w).sink = s.sink := rfl
@[simp] theorem State.setErrors_port (e : BitVec 6) (i : BitVec 4) (w : Word) : (s.setErrors e i w).port = s.port := rfl
@[simp] theorem State.setErrors_position (e : BitVec 6) (i : BitVec 4) (w : Word) : (s.setErrors e i w).position = s.position := rfl
@[simp] theorem State.setErrors_powerCycle (e : BitVec 6) (i : BitVec 4) (w : Word) : (s.setErrors e i w).powerCycle = s.powerCycle := rfl

@[simp] theorem presented_setErrors (e : BitVec 6) (i : BitVec 4) (w : Word) : presented (s.setErrors e i w) = presented s := rfl
@[simp] theorem currentFrame_setErrors (e : BitVec 6) (i : BitVec 4) (w : Word) : currentFrame (s.setErrors e i w) = currentFrame s := rfl

/-! ## `setErrFlags` -/

@[simp] theorem State.setErrFlags_cfg (e : BitVec 6) : (s.setErrFlags e).cfg = s.cfg := rfl
@[simp] theorem State.setErrFlags_active (e : BitVec 6) : (s.setErrFlags e).active = s.active := rfl
@[simp] theorem State.setErrFlags_ses (e : BitVec 6) : (s.setErrFlags e).ses = s.ses := rfl
@[simp] theorem State.setErrFlags_err (e : BitVec 6) : (s.setErrFlags e).err = e := rfl
@[simp] theorem State.setErrFlags_errInfo (e : BitVec 6) : (s.setErrFlags e).errInfo = s.errInfo := rfl
@[simp] theorem State.setErrFlags_errWord (e : BitVec 6) : (s.setErrFlags e).errWord = s.errWord := rfl
@[simp] theorem State.setErrFlags_srcAvailable (e : BitVec 6) : (s.setErrFlags e).srcAvailable = s.srcAvailable := rfl
@[simp] theorem State.setErrFlags_sink (e : BitVec 6) : (s.setErrFlags e).sink = s.sink := rfl
@[simp] theorem State.setErrFlags_port (e : BitVec 6) : (s.setErrFlags e).port = s.port := rfl
@[simp] theorem State.setErrFlags_position (e : BitVec 6) : (s.setErrFlags e).position = s.position := rfl
@[simp] theorem State.setErrFlags_powerCycle (e : BitVec 6) : (s.setErrFlags e).powerCycle = s.powerCycle := rfl

@[simp] theorem presented_setErrFlags (e : BitVec 6) : presented (s.setErrFlags e) = presented s := rfl
@[simp] theorem currentFrame_setErrFlags (e : BitVec 6) : currentFrame (s.setErrFlags e) = currentFrame s := rfl

/-! ## `emit` -/

@[simp] theorem State.emit_cfg (e : SinkEvent) : (s.emit e).cfg = s.cfg := rfl
@[simp] theorem State.emit_active (e : SinkEvent) : (s.emit e).active = s.active := rfl
@[simp] theorem State.emit_ses (e : SinkEvent) : (s.emit e).ses = s.ses := rfl
@[simp] theorem State.emit_err (e : SinkEvent) : (s.emit e).err = s.err := rfl
@[simp] theorem State.emit_errInfo (e : SinkEvent) : (s.emit e).errInfo = s.errInfo := rfl
@[simp] theorem State.emit_errWord (e : SinkEvent) : (s.emit e).errWord = s.errWord := rfl
@[simp] theorem State.emit_srcAvailable (e : SinkEvent) : (s.emit e).srcAvailable = s.srcAvailable := rfl
@[simp] theorem State.emit_sink (e : SinkEvent) : (s.emit e).sink = s.sink ++ [e] := rfl
@[simp] theorem State.emit_port (e : SinkEvent) : (s.emit e).port = s.port := rfl
@[simp] theorem State.emit_position (e : SinkEvent) : (s.emit e).position = s.position := rfl
@[simp] theorem State.emit_powerCycle (e : SinkEvent) : (s.emit e).powerCycle = s.powerCycle := rfl

@[simp] theorem presented_emit (e : SinkEvent) : presented (s.emit e) = presented s := rfl
@[simp] theorem currentFrame_emit (e : SinkEvent) : currentFrame (s.emit e) = currentFrame s := rfl

/-! ## `setSource` -/

@[simp] theorem State.setSource_cfg (b : Bool) : (s.setSource b).cfg = s.cfg := rfl
@[simp] theorem State.setSource_active (b : Bool) : (s.setSource b).active = s.active := rfl
@[simp] theorem State.setSource_ses (b : Bool) : (s.setSource b).ses = s.ses := rfl
@[simp] theorem State.setSource_err (b : Bool) : (s.setSource b).err = s.err := rfl
@[simp] theorem State.setSource_errInfo (b : Bool) : (s.setSource b).errInfo = s.errInfo := rfl
@[simp] theorem State.setSource_errWord (b : Bool) : (s.setSource b).errWord = s.errWord := rfl
@[simp] theorem State.setSource_srcAvailable (b : Bool) : (s.setSource b).srcAvailable = b := rfl
@[simp] theorem State.setSource_sink (b : Bool) : (s.setSource b).sink = s.sink := rfl
@[simp] theorem State.setSource_port (b : Bool) : (s.setSource b).port = s.port := rfl
@[simp] theorem State.setSource_position (b : Bool) : (s.setSource b).position = s.position := rfl
@[simp] theorem State.setSource_powerCycle (b : Bool) : (s.setSource b).powerCycle = s.powerCycle := rfl

@[simp] theorem presented_setSource (b : Bool) : presented (s.setSource b) = presented s := rfl
@[simp] theorem currentFrame_setSource (b : Bool) : currentFrame (s.setSource b) = currentFrame s := rfl

/-! ## `setPort` -/

@[simp] theorem State.setPort_cfg (p : List PortEvent) : (s.setPort p).cfg = s.cfg := rfl
@[simp] theorem State.setPort_active (p : List PortEvent) : (s.setPort p).active = s.active := rfl
@[simp] theorem State.setPort_ses (p : List PortEvent) : (s.setPort p).ses = s.ses := rfl
@[simp] theorem State.setPort_err (p : List PortEvent) : (s.setPort p).err = s.err := rfl
@[simp] theorem State.setPort_errInfo (p : List PortEvent) : (s.setPort p).errInfo = s.errInfo := rfl
@[simp] theorem State.setPort_errWord (p : List PortEvent) : (s.setPort p).errWord = s.errWord := rfl
@[simp] theorem State.setPort_srcAvailable (p : List PortEvent) : (s.setPort p).srcAvailable = s.srcAvailable := rfl
@[simp] theorem State.setPort_sink (p : List PortEvent) : (s.setPort p).sink = s.sink := rfl
@[simp] theorem State.setPort_port (p : List PortEvent) : (s.setPort p).port = p := rfl
@[simp] theorem State.setPort_position (p : List PortEvent) : (s.setPort p).position = s.position := rfl
@[simp] theorem State.setPort_powerCycle (p : List PortEvent) : (s.setPort p).powerCycle = s.powerCycle := rfl

/-! ## `retire` -/

@[simp] theorem State.retire_cfg : s.retire.cfg = s.cfg := rfl
@[simp] theorem State.retire_active : s.retire.active = s.active := rfl
@[simp] theorem State.retire_ses : s.retire.ses = s.ses := rfl
@[simp] theorem State.retire_err : s.retire.err = s.err := rfl
@[simp] theorem State.retire_errInfo : s.retire.errInfo = s.errInfo := rfl
@[simp] theorem State.retire_errWord : s.retire.errWord = s.errWord := rfl
@[simp] theorem State.retire_srcAvailable : s.retire.srcAvailable = s.srcAvailable := rfl
@[simp] theorem State.retire_sink : s.retire.sink = s.sink := rfl
@[simp] theorem State.retire_port : s.retire.port = s.port.tail := rfl
@[simp] theorem State.retire_position : s.retire.position = s.position + 1 := rfl
@[simp] theorem State.retire_powerCycle : s.retire.powerCycle = s.powerCycle := rfl

/-- A state is its fields. -/
theorem State.ext_fields {a b : State} (h1 : a.cfg = b.cfg) (h2 : a.active = b.active) (h3 : a.ses = b.ses)
    (h4 : a.err = b.err) (h5 : a.errInfo = b.errInfo) (h6 : a.errWord = b.errWord)
    (h7 : a.srcAvailable = b.srcAvailable) (h8 : a.sink = b.sink) (h9 : a.port = b.port)
    (h10 : a.position = b.position) (h11 : a.powerCycle = b.powerCycle) : a = b := by
  cases a
  cases b
  simp only [State.mk.injEq]
  exact ⟨h1, h2, h3, h4, h5, h6, h7, h8, h9, h10, h11⟩

end Sys2Proof.Machine
end

