-- ==== Sys2Proof/Laws/Ops.lean ====
section
/-! SUPPORT. What each shared operation can do, said once: the fields it leaves, and what it writes. -/

namespace Sys2Proof.Machine

variable (s : State)

/-! ## Errors and the session gate -/

@[simp] theorem raise_cfg (e : ErrorKind) : (raise e s).cfg = s.cfg := rfl
@[simp] theorem raise_active (e : ErrorKind) : (raise e s).active = s.active := rfl
@[simp] theorem raise_srcAvailable (e : ErrorKind) : (raise e s).srcAvailable = s.srcAvailable := rfl
@[simp] theorem raise_sink (e : ErrorKind) : (raise e s).sink = s.sink := rfl
@[simp] theorem raise_port (e : ErrorKind) : (raise e s).port = s.port := rfl
@[simp] theorem raise_position (e : ErrorKind) : (raise e s).position = s.position := rfl
@[simp] theorem raise_powerCycle (e : ErrorKind) : (raise e s).powerCycle = s.powerCycle := rfl
@[simp] theorem raise_ses (e : ErrorKind) : (raise e s).ses = s.ses := rfl
@[simp] theorem raise_err (e : ErrorKind) : (raise e s).err = setErrorFlag s.err e := rfl
@[simp] theorem raise_errInfo (e : ErrorKind) : (raise e s).errInfo = errorCode e := rfl
@[simp] theorem raise_errWord (e : ErrorKind) : (raise e s).errWord = (presented s).word := rfl

/-- In a session the gate is open (R136). -/
@[simp] theorem inSession_active (h : s.active = true) (o : StepOutcome) : inSession s o = o := by
  simp [inSession, h]

/-- Outside a session the gate answers NOT_ACTIVE (R136). -/
@[simp] theorem inSession_idle (h : s.active = false) (o : StepOutcome) :
    inSession s o = .next (raise .notActive s) := by
  simp [inSession, h]

/-- What the gate can answer. -/
theorem inSession_cases {s t : State} {o : StepOutcome} (h : inSession s o = .next t) :
    (s.active = true ∧ o = .next t) ∨ (s.active = false ∧ t = raise .notActive s) := by
  cases ha : s.active with
  | true => exact Or.inl ⟨rfl, by rwa [inSession_active s ha] at h⟩
  | false =>
    rw [inSession_idle s ha] at h
    injection h with h
    exact Or.inr ⟨rfl, h.symm⟩

/-- Setting a flag changes no other flag (R132). -/
theorem setErrorFlag_getLsbD (err : BitVec 6) (e : ErrorKind) (i : Nat) :
    (setErrorFlag err e).getLsbD i = (err.getLsbD i || decide (i = errorBit e)) := by
  by_cases hi : i < 6
  · unfold setErrorFlag
    cases e <;> interval_cases i <;> simp [errorBit]
  · have he : ¬ i = errorBit e := by cases e <;> simp [errorBit] <;> omega
    simp [setErrorFlag, BitVec.getLsbD_of_ge _ _ (Nat.le_of_not_lt hi), he]

/-- Clearing flags (R130). -/
theorem clearErrorFlags_getLsbD (err mask : BitVec 6) (i : Nat) (hi : i < 6) :
    (clearErrorFlags err mask).getLsbD i = (err.getLsbD i && !mask.getLsbD i) := by
  simp [clearErrorFlags, hi]

/-! ## Sessions -/

@[simp] theorem sessionInit_cfg : (sessionInit s).cfg = s.cfg := rfl
@[simp] theorem sessionInit_active : (sessionInit s).active = s.active := rfl
@[simp] theorem sessionInit_err : (sessionInit s).err = s.err := rfl
@[simp] theorem sessionInit_errInfo : (sessionInit s).errInfo = s.errInfo := rfl
@[simp] theorem sessionInit_errWord : (sessionInit s).errWord = s.errWord := rfl
@[simp] theorem sessionInit_srcAvailable : (sessionInit s).srcAvailable = s.srcAvailable := rfl
@[simp] theorem sessionInit_sink : (sessionInit s).sink = s.sink := rfl
@[simp] theorem sessionInit_port : (sessionInit s).port = s.port := rfl
@[simp] theorem sessionInit_position : (sessionInit s).position = s.position := rfl
@[simp] theorem sessionInit_powerCycle : (sessionInit s).powerCycle = s.powerCycle := rfl
@[simp] theorem sessionInit_ses : (sessionInit s).ses = Session.initial := rfl

@[simp] theorem closeSession_cfg : (closeSession s).cfg = s.cfg := rfl
@[simp] theorem closeSession_err : (closeSession s).err = s.err := rfl
@[simp] theorem closeSession_errInfo : (closeSession s).errInfo = s.errInfo := rfl
@[simp] theorem closeSession_errWord : (closeSession s).errWord = s.errWord := rfl
@[simp] theorem closeSession_srcAvailable : (closeSession s).srcAvailable = s.srcAvailable := rfl
@[simp] theorem closeSession_sink : (closeSession s).sink = s.sink := rfl
@[simp] theorem closeSession_port : (closeSession s).port = s.port := rfl
@[simp] theorem closeSession_position : (closeSession s).position = s.position := rfl
@[simp] theorem closeSession_powerCycle : (closeSession s).powerCycle = s.powerCycle := rfl
@[simp] theorem closeSession_active : (closeSession s).active = false := rfl
@[simp] theorem closeSession_ses : (closeSession s).ses = { s.ses with pend := [] } := rfl

/-! ## Stages: the fields outside the session they leave -/

@[simp] theorem storeSamples_cfg (a b : Pixel) : (storeSamples a b s).cfg = s.cfg := rfl
@[simp] theorem storeSamples_active (a b : Pixel) : (storeSamples a b s).active = s.active := rfl
@[simp] theorem storeSamples_err (a b : Pixel) : (storeSamples a b s).err = s.err := rfl
@[simp] theorem storeSamples_errInfo (a b : Pixel) : (storeSamples a b s).errInfo = s.errInfo := rfl
@[simp] theorem storeSamples_errWord (a b : Pixel) : (storeSamples a b s).errWord = s.errWord := rfl
@[simp] theorem storeSamples_srcAvailable (a b : Pixel) : (storeSamples a b s).srcAvailable = s.srcAvailable := rfl
@[simp] theorem storeSamples_sink (a b : Pixel) : (storeSamples a b s).sink = s.sink := rfl
@[simp] theorem storeSamples_port (a b : Pixel) : (storeSamples a b s).port = s.port := rfl
@[simp] theorem storeSamples_position (a b : Pixel) : (storeSamples a b s).position = s.position := rfl
@[simp] theorem storeSamples_powerCycle (a b : Pixel) : (storeSamples a b s).powerCycle = s.powerCycle := rfl

@[simp] theorem smoothPush_cfg (a b : Byte) : (smoothPush a b s).cfg = s.cfg := rfl
@[simp] theorem smoothPush_active (a b : Byte) : (smoothPush a b s).active = s.active := rfl
@[simp] theorem smoothPush_err (a b : Byte) : (smoothPush a b s).err = s.err := rfl
@[simp] theorem smoothPush_errInfo (a b : Byte) : (smoothPush a b s).errInfo = s.errInfo := rfl
@[simp] theorem smoothPush_errWord (a b : Byte) : (smoothPush a b s).errWord = s.errWord := rfl
@[simp] theorem smoothPush_srcAvailable (a b : Byte) : (smoothPush a b s).srcAvailable = s.srcAvailable := rfl
@[simp] theorem smoothPush_sink (a b : Byte) : (smoothPush a b s).sink = s.sink := rfl
@[simp] theorem smoothPush_port (a b : Byte) : (smoothPush a b s).port = s.port := rfl
@[simp] theorem smoothPush_position (a b : Byte) : (smoothPush a b s).position = s.position := rfl
@[simp] theorem smoothPush_powerCycle (a b : Byte) : (smoothPush a b s).powerCycle = s.powerCycle := rfl

@[simp] theorem debouncePush_cfg (r : Symbol) : (debouncePush r s).cfg = s.cfg := rfl
@[simp] theorem debouncePush_active (r : Symbol) : (debouncePush r s).active = s.active := rfl
@[simp] theorem debouncePush_err (r : Symbol) : (debouncePush r s).err = s.err := rfl
@[simp] theorem debouncePush_errInfo (r : Symbol) : (debouncePush r s).errInfo = s.errInfo := rfl
@[simp] theorem debouncePush_errWord (r : Symbol) : (debouncePush r s).errWord = s.errWord := rfl
@[simp] theorem debouncePush_srcAvailable (r : Symbol) : (debouncePush r s).srcAvailable = s.srcAvailable := rfl
@[simp] theorem debouncePush_sink (r : Symbol) : (debouncePush r s).sink = s.sink := rfl
@[simp] theorem debouncePush_port (r : Symbol) : (debouncePush r s).port = s.port := rfl
@[simp] theorem debouncePush_position (r : Symbol) : (debouncePush r s).position = s.position := rfl
@[simp] theorem debouncePush_powerCycle (r : Symbol) : (debouncePush r s).powerCycle = s.powerCycle := rfl

@[simp] theorem derivStage_cfg (u : DerivUnit) (v : Byte) : (derivStage u v s).cfg = s.cfg := by cases u <;> rfl
@[simp] theorem derivStage_active (u : DerivUnit) (v : Byte) : (derivStage u v s).active = s.active := by cases u <;> rfl
@[simp] theorem derivStage_err (u : DerivUnit) (v : Byte) : (derivStage u v s).err = s.err := by cases u <;> rfl
@[simp] theorem derivStage_errInfo (u : DerivUnit) (v : Byte) : (derivStage u v s).errInfo = s.errInfo := by cases u <;> rfl
@[simp] theorem derivStage_errWord (u : DerivUnit) (v : Byte) : (derivStage u v s).errWord = s.errWord := by cases u <;> rfl
@[simp] theorem derivStage_srcAvailable (u : DerivUnit) (v : Byte) : (derivStage u v s).srcAvailable = s.srcAvailable := by cases u <;> rfl
@[simp] theorem derivStage_sink (u : DerivUnit) (v : Byte) : (derivStage u v s).sink = s.sink := by cases u <;> rfl
@[simp] theorem derivStage_port (u : DerivUnit) (v : Byte) : (derivStage u v s).port = s.port := by cases u <;> rfl
@[simp] theorem derivStage_position (u : DerivUnit) (v : Byte) : (derivStage u v s).position = s.position := by cases u <;> rfl
@[simp] theorem derivStage_powerCycle (u : DerivUnit) (v : Byte) : (derivStage u v s).powerCycle = s.powerCycle := by cases u <;> rfl

@[simp] theorem asmPush_cfg (b : Bool) : (asmPush b s).cfg = s.cfg := by
  unfold asmPush
  split <;> rfl
@[simp] theorem asmPush_active (b : Bool) : (asmPush b s).active = s.active := by
  unfold asmPush
  split <;> rfl
@[simp] theorem asmPush_err (b : Bool) : (asmPush b s).err = s.err := by
  unfold asmPush
  split <;> rfl
@[simp] theorem asmPush_errInfo (b : Bool) : (asmPush b s).errInfo = s.errInfo := by
  unfold asmPush
  split <;> rfl
@[simp] theorem asmPush_errWord (b : Bool) : (asmPush b s).errWord = s.errWord := by
  unfold asmPush
  split <;> rfl
@[simp] theorem asmPush_srcAvailable (b : Bool) : (asmPush b s).srcAvailable = s.srcAvailable := by
  unfold asmPush
  split <;> rfl
@[simp] theorem asmPush_port (b : Bool) : (asmPush b s).port = s.port := by
  unfold asmPush
  split <;> rfl
@[simp] theorem asmPush_position (b : Bool) : (asmPush b s).position = s.position := by
  unfold asmPush
  split <;> rfl
@[simp] theorem asmPush_powerCycle (b : Bool) : (asmPush b s).powerCycle = s.powerCycle := by
  unfold asmPush
  split <;> rfl

@[simp] theorem edgeStage_cfg (a b : Bool) : (edgeStage a b s).cfg = s.cfg := by
  unfold edgeStage
  split <;> simp
@[simp] theorem edgeStage_active (a b : Bool) : (edgeStage a b s).active = s.active := by
  unfold edgeStage
  split <;> simp
@[simp] theorem edgeStage_err (a b : Bool) : (edgeStage a b s).err = s.err := by
  unfold edgeStage
  split <;> simp
@[simp] theorem edgeStage_errInfo (a b : Bool) : (edgeStage a b s).errInfo = s.errInfo := by
  unfold edgeStage
  split <;> simp
@[simp] theorem edgeStage_errWord (a b : Bool) : (edgeStage a b s).errWord = s.errWord := by
  unfold edgeStage
  split <;> simp
@[simp] theorem edgeStage_srcAvailable (a b : Bool) : (edgeStage a b s).srcAvailable = s.srcAvailable := by
  unfold edgeStage
  split <;> simp
@[simp] theorem edgeStage_port (a b : Bool) : (edgeStage a b s).port = s.port := by
  unfold edgeStage
  split <;> simp
@[simp] theorem edgeStage_position (a b : Bool) : (edgeStage a b s).position = s.position := by
  unfold edgeStage
  split <;> simp
@[simp] theorem edgeStage_powerCycle (a b : Bool) : (edgeStage a b s).powerCycle = s.powerCycle := by
  unfold edgeStage
  split <;> simp

@[simp] theorem symbolStage_cfg (r : Symbol) : (symbolStage r s).cfg = s.cfg := by
  simp [symbolStage]
@[simp] theorem symbolStage_active (r : Symbol) : (symbolStage r s).active = s.active := by
  simp [symbolStage]
@[simp] theorem symbolStage_err (r : Symbol) : (symbolStage r s).err = s.err := by
  simp [symbolStage]
@[simp] theorem symbolStage_errInfo (r : Symbol) : (symbolStage r s).errInfo = s.errInfo := by
  simp [symbolStage]
@[simp] theorem symbolStage_errWord (r : Symbol) : (symbolStage r s).errWord = s.errWord := by
  simp [symbolStage]
@[simp] theorem symbolStage_srcAvailable (r : Symbol) : (symbolStage r s).srcAvailable = s.srcAvailable := by
  simp [symbolStage]
@[simp] theorem symbolStage_port (r : Symbol) : (symbolStage r s).port = s.port := by
  simp [symbolStage]
@[simp] theorem symbolStage_position (r : Symbol) : (symbolStage r s).position = s.position := by
  simp [symbolStage]
@[simp] theorem symbolStage_powerCycle (r : Symbol) : (symbolStage r s).powerCycle = s.powerCycle := by
  simp [symbolStage]

@[simp] theorem pipeFromSmoother_cfg (a b : Byte) : (pipeFromSmoother a b s).cfg = s.cfg := by
  simp [pipeFromSmoother]
@[simp] theorem pipeFromSmoother_active (a b : Byte) : (pipeFromSmoother a b s).active = s.active := by
  simp [pipeFromSmoother]
@[simp] theorem pipeFromSmoother_err (a b : Byte) : (pipeFromSmoother a b s).err = s.err := by
  simp [pipeFromSmoother]
@[simp] theorem pipeFromSmoother_errInfo (a b : Byte) : (pipeFromSmoother a b s).errInfo = s.errInfo := by
  simp [pipeFromSmoother]
@[simp] theorem pipeFromSmoother_errWord (a b : Byte) : (pipeFromSmoother a b s).errWord = s.errWord := by
  simp [pipeFromSmoother]
@[simp] theorem pipeFromSmoother_srcAvailable (a b : Byte) : (pipeFromSmoother a b s).srcAvailable = s.srcAvailable := by
  simp [pipeFromSmoother]
@[simp] theorem pipeFromSmoother_port (a b : Byte) : (pipeFromSmoother a b s).port = s.port := by
  simp [pipeFromSmoother]
@[simp] theorem pipeFromSmoother_position (a b : Byte) : (pipeFromSmoother a b s).position = s.position := by
  simp [pipeFromSmoother]
@[simp] theorem pipeFromSmoother_powerCycle (a b : Byte) : (pipeFromSmoother a b s).powerCycle = s.powerCycle := by
  simp [pipeFromSmoother]

/-! ## Stages: what they write -/

@[simp] theorem storeSamples_ses (a b : Pixel) :
    (storeSamples a b s).ses = { s.ses with sampleSig := ⟨a, true⟩, sampleClk := ⟨b, true⟩ } := rfl

@[simp] theorem smoothPush_ses (a b : Byte) :
    (smoothPush a b s).ses = { s.ses with
      qs := windowPush s.cfg.smoothLen.toNat s.ses.qs a
      qc := windowPush s.cfg.smoothLen.toNat s.ses.qc b } := rfl

@[simp] theorem debouncePush_ses (r : Symbol) :
    (debouncePush r s).ses = { s.ses with
      rawSym := r
      rawValid := true
      win := windowPush s.cfg.debLen.toNat s.ses.win r
      debSym := plurality (windowPush s.cfg.debLen.toNat s.ses.win r)
      debValid := true } := rfl

/-- `AsmPush` before the eighth bit (R111). -/
theorem asmPush_short (b : Bool) (h : s.ses.pend.length + 1 ≠ 8) :
    asmPush b s = s.setSes { s.ses with pend := s.ses.pend ++ [b] } := by
  simp [asmPush, Config.bitsPerByte, h]

/-- `AsmPush` of the eighth bit (R111). -/
theorem asmPush_full (b : Bool) (h : s.ses.pend.length + 1 = 8) :
    asmPush b s = (s.setSes { s.ses with
      pend := [], lastByte := convert (s.ses.pend ++ [b]), lastByteValid := true }).emit
        (.byte (convert (s.ses.pend ++ [b]))) := by
  simp [asmPush, Config.bitsPerByte, h]

/-- What `AsmPush` can do (R111). -/
theorem asmPush_cases (b : Bool) :
    (s.ses.pend.length + 1 = 8 ∧ asmPush b s = (s.setSes { s.ses with
      pend := [], lastByte := convert (s.ses.pend ++ [b]), lastByteValid := true }).emit
        (.byte (convert (s.ses.pend ++ [b])))) ∨
    (s.ses.pend.length + 1 ≠ 8 ∧ asmPush b s = s.setSes { s.ses with pend := s.ses.pend ++ [b] }) := by
  by_cases h : s.ses.pend.length + 1 = 8
  · exact Or.inl ⟨h, asmPush_full s b h⟩
  · exact Or.inr ⟨h, asmPush_short s b h⟩

/-- `AsmPush` emits at most one event (R115). -/
theorem asmPush_sink (b : Bool) :
    (asmPush b s).sink = s.sink ∨ ∃ v, (asmPush b s).sink = s.sink ++ [.byte v] := by
  rcases asmPush_cases s b with ⟨_, h⟩ | ⟨_, h⟩
  · exact Or.inr ⟨_, by rw [h]; rfl⟩
  · exact Or.inl (by rw [h]; rfl)

/-- The extractor emits nothing while the clock holds (R104). -/
theorem edgeStage_hold (sig clk : Bool) (h : clk = s.ses.prevClock) :
    edgeStage sig clk s = s.setSes { s.ses with prevClock := clk, lastBitValid := false } := by
  simp [edgeStage, edgeSession, edgeBit, h]

/-- The extractor latches the signal bit when the clock toggles (R104, R105). -/
theorem edgeStage_toggle (sig clk : Bool) (h : clk ≠ s.ses.prevClock) :
    edgeStage sig clk s =
      asmPush sig (s.setSes { s.ses with prevClock := clk, lastBit := sig, lastBitValid := true }) := by
  simp [edgeStage, edgeSession, edgeBit, h]

/-- The edge stage emits at most one event (R115). -/
theorem edgeStage_sink (sig clk : Bool) :
    (edgeStage sig clk s).sink = s.sink ∨ ∃ v, (edgeStage sig clk s).sink = s.sink ++ [.byte v] := by
  by_cases h : clk = s.ses.prevClock
  · exact Or.inl (by rw [edgeStage_hold s sig clk h]; rfl)
  · rw [edgeStage_toggle s sig clk h]
    exact asmPush_sink _ _

/-- The pipeline tail emits at most one event (R115). -/
theorem symbolStage_sink (r : Symbol) :
    (symbolStage r s).sink = s.sink ∨ ∃ v, (symbolStage r s).sink = s.sink ++ [.byte v] := by
  have h := edgeStage_sink (debouncePush r s) (signalHalf (debouncePush r s).ses.debSym)
    (clockHalf (debouncePush r s).ses.debSym)
  simpa [symbolStage] using h

/-! ## Windows -/

/-- A pushed window is the last `len` of what was pushed (R82, R97). -/
theorem windowPush_eq_drop {α : Type} (len : Nat) (q : List α) (v : α) (h : q.length ≤ len) :
    windowPush len q v = (q ++ [v]).drop (q.length + 1 - len) := by
  unfold windowPush
  by_cases hl : (q ++ [v]).length > len
  · have hd : q.length + 1 - len = 1 := by simp at hl; omega
    rw [if_pos hl, hd, List.drop_one]
  · have hd : q.length + 1 - len = 0 := by simp at hl; omega
    rw [if_neg hl, hd, List.drop_zero]

/-- The length of a pushed window (R82, R97). -/
theorem windowPush_length {α : Type} (len : Nat) (q : List α) (v : α) :
    (windowPush len q v).length = if q.length + 1 > len then q.length else q.length + 1 := by
  unfold windowPush
  split <;> simp_all

/-- A window within its length stays within it (R28). -/
theorem windowPush_length_le {α : Type} (len : Nat) (q : List α) (v : α) (h : q.length ≤ len) :
    (windowPush len q v).length ≤ len := by
  rw [windowPush_length]
  split <;> omega

/-! ## Stepping -/

@[simp] theorem retireOutcome_next (t : State) : retireOutcome (.next t) = .next t.retire := rfl

/-- A retired step comes from a step. -/
theorem retireOutcome_eq_next {o : StepOutcome} {t : State} (h : retireOutcome o = .next t) :
    ∃ u, o = .next u ∧ t = u.retire := by
  cases o with
  | next u =>
    injection h with h
    exact ⟨u, rfl, h.symm⟩
  | fault r => cases h
  | refused r => cases h

/-- What one step can do: idle, run or reject the presented word, follow SRC_AVAILABLE, or reset. -/
theorem step_cases {s t : State} (h : step s = .next t) :
    (s.port = [] ∧ t = s) ∨
    (∃ o rest, s.port = .op o :: rest ∧
      ((∃ e, decode o.word = .error e ∧ t = (raise .illegalOp s).retire) ∨
       (∃ i u, decode o.word = .ok i ∧ exec i s = .next u ∧ t = u.retire))) ∨
    (∃ b rest, s.port = .source b :: rest ∧ t = sourceChange b s) ∨
    (∃ rest, s.port = .reset :: rest ∧ t = powerOnReset s) := by
  unfold step runPort at h
  cases hp : s.port with
  | nil =>
    rw [hp] at h
    injection h with h
    exact Or.inl ⟨rfl, h.symm⟩
  | cons e rest =>
    rw [hp] at h
    cases e with
    | op o =>
      obtain ⟨u, hu, ht⟩ := retireOutcome_eq_next h
      refine Or.inr (Or.inl ⟨o, rest, rfl, ?_⟩)
      unfold runWord at hu
      cases hd : decode o.word with
      | error e =>
        rw [hd] at hu
        injection hu with hu
        exact Or.inl ⟨e, rfl, by rw [ht, hu]⟩
      | ok i =>
        rw [hd] at hu
        exact Or.inr ⟨i, u, rfl, hu, ht⟩
    | source b =>
      injection h with h
      exact Or.inr (Or.inr (Or.inl ⟨b, rest, rfl, h.symm⟩))
    | reset =>
      injection h with h
      exact Or.inr (Or.inr (Or.inr ⟨rest, rfl, h.symm⟩))

end Sys2Proof.Machine
end

