-- ==== Sys2Proof/Laws/Control.lean ====
section
/-! SUPPORT. What CFGWR's operand forms and the configuration write can do, said once. -/

namespace Sys2Proof.Machine

/-- The low bits of a CFGWR operand, as numbers. -/
theorem extract_toNat (data : Half) (lo len : Nat) :
    (data.extractLsb' lo len).toNat = data.toNat / 2 ^ lo % 2 ^ len := by
  rw [BitVec.extractLsb'_toNat, Nat.shiftRight_eq_div_pow]

/-- CHAN's operand is refused exactly for R33's illegal values. -/
theorem chanOperand_none (data : Half) : chanOperand data = none ↔ illegalValue 0x8 data = true := by
  have hlt := data.isLt
  have e0 := extract_toNat data 0 2
  have e2 := extract_toNat data 2 2
  have e4 := extract_toNat data 4 12
  have h12 : data.extractLsb' 4 12 = 0#12 ↔ data.toNat < 16 := by
    rw [← BitVec.toNat_inj, e4]
    simp
    omega
  simp only [illegalValue]
  unfold chanOperand
  by_cases h : data.extractLsb' 4 12 = 0#12
  · have hs := h12.mp h
    have b0 : data.toNat % 4 < 4 := Nat.mod_lt _ (by decide)
    have b2 : data.toNat / 4 % 4 < 4 := Nat.mod_lt _ (by decide)
    simp only [h, ne_eq, not_true_eq_false, if_false, Channel.ofCode, e0, e2]
    norm_num
    generalize data.toNat % 4 = a at *
    generalize data.toNat / 4 % 4 = b at *
    interval_cases a <;> interval_cases b <;> simp <;> omega
  · have hs : 16 ≤ data.toNat := by
      by_contra hc
      exact h (h12.mpr (by omega))
    simp [h, hs]

/-- LENS's operand is refused exactly for R35's illegal values. -/
theorem lensOperand_none (data : Half) : lensOperand data = none ↔ illegalValue 0xA data = true := by
  have hlt := data.isLt
  have h8 : data.extractLsb' 8 8 = 0#8 ↔ data.toNat < 256 := by
    rw [← BitVec.toNat_inj, extract_toNat]
    simp
    omega
  have h0 : data.extractLsb' 0 4 = 0#4 ↔ data.toNat % 16 = 0 := by
    rw [← BitVec.toNat_inj, extract_toNat]
    simp
  have h4 : data.extractLsb' 4 4 = 0#4 ↔ data.toNat / 16 % 16 = 0 := by
    rw [← BitVec.toNat_inj, extract_toNat]
    simp
  simp only [illegalValue]
  unfold lensOperand
  simp only [ne_eq, h8, h0, h4]
  split <;> simp <;> omega

/-- NSAMPLES's operand is refused exactly for R36's illegal value. -/
theorem nsamplesOperand_none (data : Half) : nsamplesOperand data = none ↔ illegalValue 0xB data = true := by
  have h : data = 0#16 ↔ data.toNat = 0 := by
    rw [← BitVec.toNat_inj]
    simp
  simp only [illegalValue, ← h]
  unfold nsamplesOperand
  split <;> simp_all

/-- CFGWR always answers a next state: the configuration write, or an error (R129). -/
theorem execCfgwr_cases (idx : BitVec 4) (data : Half) (s : State) :
    (∃ c, configWrite s.active s.cfg idx data = .ok c ∧ execCfgwr idx data s = .next (s.setCfg c)) ∨
    (∃ e, configWrite s.active s.cfg idx data = .error e ∧ execCfgwr idx data s = .next (raise e s)) := by
  unfold execCfgwr
  cases h : configWrite s.active s.cfg idx data with
  | ok c => exact Or.inl ⟨c, rfl, rfl⟩
  | error e => exact Or.inr ⟨e, rfl, rfl⟩

/-- A coordinate write touches regions only (R32). -/
theorem writeCoordinate_rest (c : Configuration) (idx : Nat) (data : Half) :
    (writeCoordinate c idx data).sigCh = c.sigCh ∧ (writeCoordinate c idx data).clkCh = c.clkCh ∧
      (writeCoordinate c idx data).low = c.low ∧ (writeCoordinate c idx data).high = c.high ∧
      (writeCoordinate c idx data).smoothLen = c.smoothLen ∧
      (writeCoordinate c idx data).debLen = c.debLen ∧ (writeCoordinate c idx data).nsamples = c.nsamples := by
  unfold writeCoordinate
  split <;> exact ⟨rfl, rfl, rfl, rfl, rfl, rfl, rfl⟩

end Sys2Proof.Machine
end

