-- ==== Sys2Proof/Laws/Fields.lean ====
section
/-! SUPPORT. Fields of a word: reading a placed field back, bit by bit. -/

namespace Sys2Proof

/-- A bit of a placed field. -/
@[simp] theorem getLsbD_placeField {n : Nat} (lo : Nat) (v : BitVec n) (i : Nat) :
    (placeField lo v).getLsbD i = (decide (i < 32) && decide (lo ≤ i) && v.getLsbD (i - lo)) := by
  unfold placeField
  rw [BitVec.getLsbD_shiftLeft, BitVec.getLsbD_setWidth]
  by_cases h1 : i < 32
  · have h3 : i - lo < 32 := by omega
    by_cases h2 : lo ≤ i
    · simp [h1, h2, h3, not_lt.mpr h2]
    · simp [h2, not_le.mp h2]
  · simp [h1]

/-- A bit of a placed field, as an element. -/
@[simp] theorem getElem_placeField {n : Nat} (lo : Nat) (v : BitVec n) (i : Nat) (hi : i < 32) :
    (placeField lo v)[i] = (decide (lo ≤ i) && v.getLsbD (i - lo)) := by
  rw [← BitVec.getLsbD_eq_getElem, getLsbD_placeField]
  simp [hi]

/-- The symbol of a symbol's code (R68). -/
@[simp] theorem symbol_ofCode_code (s : Symbol) : Symbol.ofCode s.code = s := by
  cases s <;> rfl

/-- The code of a code's symbol: every code is legal (R68). -/
theorem symbol_code_ofCode (c : BitVec 2) : (Symbol.ofCode c).code = c := by
  revert c
  decide

/-- The unit of a unit's bit (R66). -/
@[simp] theorem derivUnit_ofBit_code (u : DerivUnit) : DerivUnit.ofBit (u.code.getLsbD 0) = u := by
  cases u <;> rfl

/-- The row of a row's OPC field (R69). -/
@[simp] theorem opcodeOf_code (op : Opcode) : opcodeOf op.code = some op := by
  cases op <;> rfl

/-- The OPC field of the row an OPC field selects (R69). -/
theorem opcodeOf_eq_some {opc : BitVec 4} {op : Opcode} (h : opcodeOf opc = some op) : op.code = opc := by
  revert h
  revert opc
  cases op <;> decide

end Sys2Proof
end

