-- ==== Sys2Proof/Laws/PerInstr.lean ====
section
/-! SUPPORT. Facts about every operation as syntax, one lemma per constructor. -/

namespace Sys2Proof.Laws.EncodingKeepsReservedBitsZero

/-- The word of an operation has its row's OPC field (R69) and 0 in every reserved bit of its format (R65). -/
def Statement (i : Sys2Proof.Instr) : Prop :=
  Sys2Proof.opcField (Sys2Proof.encode i) = i.opcode.code ∧
    Sys2Proof.encode i &&& Sys2Proof.reservedMask i.opcode.format = 0#32

/-- The OPC field of any encoding. -/
theorem opcField_encode (i : Sys2Proof.Instr) :
    Sys2Proof.opcField (Sys2Proof.encode i) = i.opcode.code := by
  unfold Sys2Proof.opcField Sys2Proof.encode
  ext j hj
  interval_cases j <;> cases i <;>
    simp [Sys2Proof.operandBits, Sys2Proof.Instr.opcode, Sys2Proof.Opcode.code]

theorem nop : Statement .nop := by unfold Statement; decide
theorem start : Statement .start := by unfold Statement; decide
theorem frame : Statement .frame := by unfold Statement; decide
theorem endStream : Statement .endStream := by unfold Statement; decide
theorem stop : Statement .stop := by unfold Statement; decide

theorem inject (s c : Sys2Proof.Byte) : Statement (.inject s c) := by
  refine ⟨opcField_encode _, ?_⟩
  ext j hj
  simp only [Sys2Proof.encode, Sys2Proof.operandBits, Sys2Proof.Instr.opcode,
    Sys2Proof.Opcode.format, Sys2Proof.Opcode.code, Sys2Proof.reservedMask]
  interval_cases j <;> simp

theorem symbol (sym : Sys2Proof.Symbol) : Statement (.symbol sym) := by
  unfold Statement
  revert sym
  intro sym
  cases sym <;> decide

theorem edge (sig clk : Bool) : Statement (.edge sig clk) := by
  unfold Statement
  cases sig <;> cases clk <;> decide

theorem bit (b : Bool) : Statement (.bit b) := by
  unfold Statement
  cases b <;> decide

theorem deriv (u : Sys2Proof.DerivUnit) (v : Sys2Proof.Byte) : Statement (.deriv u v) := by
  refine ⟨opcField_encode _, ?_⟩
  ext j hj
  simp only [Sys2Proof.encode, Sys2Proof.operandBits, Sys2Proof.Instr.opcode,
    Sys2Proof.Opcode.format, Sys2Proof.Opcode.code, Sys2Proof.reservedMask]
  cases u <;> interval_cases j <;> simp [Sys2Proof.DerivUnit.code]

theorem cfgwr (idx : BitVec 4) (data : Sys2Proof.Half) : Statement (.cfgwr idx data) := by
  refine ⟨opcField_encode _, ?_⟩
  ext j hj
  simp only [Sys2Proof.encode, Sys2Proof.operandBits, Sys2Proof.Instr.opcode,
    Sys2Proof.Opcode.format, Sys2Proof.Opcode.code, Sys2Proof.reservedMask]
  interval_cases j <;> simp

theorem clrerr (mask : BitVec 6) : Statement (.clrerr mask) := by
  refine ⟨opcField_encode _, ?_⟩
  ext j hj
  simp only [Sys2Proof.encode, Sys2Proof.operandBits, Sys2Proof.Instr.opcode,
    Sys2Proof.Opcode.format, Sys2Proof.Opcode.code, Sys2Proof.reservedMask]
  interval_cases j <;> simp

end Sys2Proof.Laws.EncodingKeepsReservedBitsZero
end

