-- ==== Sys2Proof/Laws/Sampler.lean ====
section
/-! SUPPORT. What the sampler and FRAME can do, said once. -/

namespace Sys2Proof.Machine

/-- `Valid(r, f)` fails exactly where R76's words say the region is outside the frame. -/
theorem regionValid_eq (r : Region) (f : Frame) : regionValid r f = !outsideFrame r f := by
  unfold regionValid outsideFrame
  by_cases h1 : r.x0.toNat < r.x1.toNat <;> by_cases h2 : r.x1.toNat ≤ f.width.toNat <;>
    by_cases h3 : r.y0.toNat < r.y1.toNat <;> by_cases h4 : r.y1.toNat ≤ f.height.toNat <;>
    simp_all

/-- A coordinate of a valid region is a coordinate of the frame (R53, R76). -/
theorem inBounds_of_contains {r : Region} {f : Frame} {c : Coord} (hv : regionValid r f = true)
    (hc : regionContains r c = true) : f.inBounds c.x c.y = true := by
  simp only [regionValid, regionContains, Frame.inBounds, Bool.and_eq_true, decide_eq_true_eq] at *
  omega

/-- The pixel a draw inside a valid region reads (R53, R78). -/
theorem drawnPixel_inside {r : Region} {f : Frame} {c : Coord} (hv : regionValid r f = true)
    (hc : regionContains r c = true) :
    drawnPixel f r c = .ok ⟨Memory.read f.pixels (pixelAddr c.x c.y 0),
      Memory.read f.pixels (pixelAddr c.x c.y 1), Memory.read f.pixels (pixelAddr c.x c.y 2)⟩ := by
  unfold drawnPixel
  rw [if_pos hc, pixRead_isSome f c.x c.y (inBounds_of_contains hv hc)]

/-- A draw outside its region stops sampling (R53). -/
theorem drawnPixel_outside {r : Region} {f : Frame} {c : Coord} (hc : regionContains r c = false) :
    drawnPixel f r c = .error .answerOutsideRegion := by
  unfold drawnPixel
  rw [hc]
  rfl

/-- In a valid region a draw stops sampling only by lying outside the region (R53). -/
theorem drawnPixel_error {r : Region} {f : Frame} {c : Coord} {e : SampleStop}
    (hv : regionValid r f = true) (h : drawnPixel f r c = .error e) :
    e = .answerOutsideRegion ∧ regionContains r c = false := by
  cases hc : regionContains r c with
  | true =>
    rw [drawnPixel_inside hv hc] at h
    cases h
  | false =>
    rw [drawnPixel_outside hc] at h
    injection h with h
    exact ⟨h.symm, rfl⟩

/-- The accumulators when every draw lies inside a valid region (R78, R79). -/
theorem sampleSums_inside {r : Region} {f : Frame} {draw : Nat → Coord} (hv : regionValid r f = true) (n : Nat)
    (hd : ∀ k, k < n → regionContains r (draw k) = true) :
    sampleSums f r draw n = .ok
      ⟨((List.range n).map (fun k => (Memory.read f.pixels (pixelAddr (draw k).x (draw k).y 0)).toNat)).sum,
       ((List.range n).map (fun k => (Memory.read f.pixels (pixelAddr (draw k).x (draw k).y 1)).toNat)).sum,
       ((List.range n).map (fun k => (Memory.read f.pixels (pixelAddr (draw k).x (draw k).y 2)).toNat)).sum⟩ := by
  induction n with
  | zero => rfl
  | succ n ih =>
    have ih := ih (fun k hk => hd k (Nat.lt_succ_of_lt hk))
    simp only [sampleSums, ih, drawnPixel_inside hv (hd n (Nat.lt_succ_self n)), ChannelSums.add,
      List.range_succ, List.map_append, List.sum_append, List.map_cons, List.map_nil, List.sum_cons,
      List.sum_nil, Nat.add_zero]

/-- In a valid region sampling stops only at a draw outside the region (R53). -/
theorem sampleSums_error {r : Region} {f : Frame} {draw : Nat → Coord} {e : SampleStop}
    (hv : regionValid r f = true) (n : Nat) (h : sampleSums f r draw n = .error e) :
    e = .answerOutsideRegion ∧ ∃ k, k < n ∧ regionContains r (draw k) = false := by
  induction n with
  | zero => cases h
  | succ n ih =>
    unfold sampleSums at h
    cases hs : sampleSums f r draw n with
    | error e' =>
      rw [hs] at h
      injection h with h
      subst h
      obtain ⟨he, k, hk, hc⟩ := ih hs
      exact ⟨he, k, Nat.lt_succ_of_lt hk, hc⟩
    | ok t =>
      rw [hs] at h
      simp only at h
      cases hp : drawnPixel f r (draw n) with
      | error e' =>
        rw [hp] at h
        injection h with h
        subst h
        obtain ⟨he, hc⟩ := drawnPixel_error hv hp
        exact ⟨he, n, Nat.lt_succ_self n, hc⟩
      | ok p =>
        rw [hp] at h
        cases h

/-- What FRAME can do in a session: drop the frame, stop at an inadmissible oracle answer, or go on (R121). -/
theorem execFrame_cases (s : State) (ha : s.active = true) :
    ((outsideFrame s.cfg.sigRegion (currentFrame s) = true ∨
        outsideFrame s.cfg.clkRegion (currentFrame s) = true) ∧
      execFrame s = .next (raise .invalidRegion s)) ∨
    (outsideFrame s.cfg.sigRegion (currentFrame s) = false ∧
      outsideFrame s.cfg.clkRegion (currentFrame s) = false ∧ execFrame s = frameSampled s) := by
  unfold execFrame
  rw [inSession_active s ha, regionValid_eq, regionValid_eq]
  cases h1 : outsideFrame s.cfg.sigRegion (currentFrame s) <;>
    cases h2 : outsideFrame s.cfg.clkRegion (currentFrame s) <;> simp

/-- What the classifier can answer, by its tests in order (R90). -/
theorem classify_cases (low high : Byte) (a b : Smoothed) :
    (a.sum < low.toNat * a.cnt ∧ b.sum < low.toNat * b.cnt ∧ classify low high a b = .neither) ∨
    (¬ (a.sum < low.toNat * a.cnt ∧ b.sum < low.toNat * b.cnt) ∧ a.sum > high.toNat * a.cnt ∧
      b.sum > high.toNat * b.cnt ∧ classify low high a b = .both) ∨
    (¬ (a.sum < low.toNat * a.cnt ∧ b.sum < low.toNat * b.cnt) ∧
      ¬ (a.sum > high.toNat * a.cnt ∧ b.sum > high.toNat * b.cnt) ∧ b.sum * a.cnt > a.sum * b.cnt ∧
      classify low high a b = .clock) ∨
    (¬ (a.sum < low.toNat * a.cnt ∧ b.sum < low.toNat * b.cnt) ∧
      ¬ (a.sum > high.toNat * a.cnt ∧ b.sum > high.toNat * b.cnt) ∧ ¬ b.sum * a.cnt > a.sum * b.cnt ∧
      classify low high a b = .signal) := by
  unfold classify
  by_cases h1 : a.sum < low.toNat * a.cnt ∧ b.sum < low.toNat * b.cnt
  · exact Or.inl ⟨h1.1, h1.2, if_pos h1⟩
  · by_cases h2 : a.sum > high.toNat * a.cnt ∧ b.sum > high.toNat * b.cnt
    · exact Or.inr (Or.inl ⟨h1, h2.1, h2.2, by rw [if_neg h1, if_pos h2]⟩)
    · by_cases h3 : b.sum * a.cnt > a.sum * b.cnt
      · exact Or.inr (Or.inr (Or.inl ⟨h1, h2, h3, by rw [if_neg h1, if_neg h2, if_pos h3]⟩))
      · exact Or.inr (Or.inr (Or.inr ⟨h1, h2, h3, by rw [if_neg h1, if_neg h2, if_neg h3]⟩))

/-- What a push into a derivative unit gives (R96). -/
theorem derivPush_cases (u : DerivState) (v : Byte) :
    (u.hasPrev = true ∧
      derivPush u v = ⟨v, true, BitVec.ofInt 9 ((v.toNat : Int) - (u.prev.toNat : Int)), true⟩) ∨
    (u.hasPrev = false ∧ derivPush u v = ⟨v, true, 0#9, false⟩) := by
  unfold derivPush
  cases h : u.hasPrev <;> simp

end Sys2Proof.Machine
end

