-- ==== Sys2Proof/Machine/Driver.lean ====
section
/-! DEFINITION. The driver loop of spec/46_pipeline_ops.md R124, a host procedure outside the OFD: the stream
of inputs it puts on the operation port. -/

namespace Sys2Proof.Machine

/-- An operation that carries a frame, with no pinned oracle answer (R51). -/
def frameOperation (f : Frame) : Operation := ⟨encode .frame, f, [], []⟩

/-- An operation that needs no frame. -/
def plainOperation (i : Instr) : Operation := ⟨encode i, ⟨0#16, 0#16, []⟩, [], []⟩

/-- `run(sink)` (R124) for a frame source that can be started or not and then supplies these frames: START;
where it fails the loop returns with nothing decoded and no EOS; else one FRAME per frame, then END. -/
def driverStream (sourceStarts : Bool) (frames : List Frame) : List PortEvent :=
  if sourceStarts then
    [.source true, .op (plainOperation .start)] ++
      frames.map (fun f => .op (frameOperation f)) ++ [.op (plainOperation .endStream)]
  else [.source false, .op (plainOperation .start)]

end Sys2Proof.Machine
end

