-- ==== Sys2Proof/Tests/Slice0.lean ====
section
/-! SUPPORT. The model's own tests: expected results come from spec/95_test_vectors.md and the examples of the
rules. After them, for each statement with hypotheses, a concrete case that meets them. -/

namespace Sys2Proof.Tests

open Sys2Proof Sys2Proof.Machine

/-! ## Helpers -/

/-- What a function of the next state answers, if there is one. -/
def after {α : Type} (o : StepOutcome) (f : State → α) : Option α :=
  match o with
  | .next s => some (f s)
  | .fault _ => none
  | .refused _ => none

/-- The refusal, if there is one. -/
def refusal (o : StepOutcome) : Option Refusal :=
  match o with
  | .next _ => none
  | .fault _ => none
  | .refused r => some r

/-- The operation a word decodes to, if any. -/
def decoded (w : Word) : Option Instr :=
  match decode w with
  | .ok i => some i
  | .error _ => none

/-- Why a word is illegal, if it is. -/
def rejected (w : Word) : Option IllegalWord :=
  match decode w with
  | .ok _ => none
  | .error e => some e

/-- Power-on with a session running. -/
def live : State := State.reset.setActive true

/-- A state with one operation presented. -/
def presenting (s : State) (w : Word) : State := s.setPort [.op ⟨w, ⟨0, 0, []⟩, [], []⟩]

/-- A live state with these pending bits. -/
def pending (p : List Bool) : State := live.setSes { live.ses with pend := p }

/-- A live state with these debouncer window and length. -/
def debouncing (n : BitVec 4) (w : List Symbol) : State :=
  (live.setCfg { live.cfg with debLen := n }).setSes { live.ses with win := w }

/-- A live state with these smoother windows and length. -/
def smoothing (n : BitVec 4) (q : List Byte) : State :=
  (live.setCfg { live.cfg with smoothLen := n }).setSes { live.ses with qs := q, qc := q }

/-- A 2x1 frame: (0, 200, 0) at x = 0, (200, 0, 0) at x = 1 (program P3's colours). -/
def twoPixels : Frame := setPixel (setPixel ⟨2, 1, []⟩ 0 0 ⟨0, 200, 0⟩) 1 0 ⟨200, 0, 0⟩

/-- A live state with one-pixel regions on a presented two-pixel frame, two draws a region, and these pinned
answers for the signal region. -/
def framing (f : Frame) (draws : List Coord) : State :=
  (live.setCfg { live.cfg with sigRegion := ⟨0, 1, 0, 1⟩, clkRegion := ⟨1, 2, 0, 1⟩, nsamples := 2 }).setPort
    [.op ⟨0x20000000, f, draws, [⟨1, 0⟩, ⟨1, 0⟩]⟩]

/-! ## Well-formedness: the one check, and a term it refuses (R71 item 3) -/

theorem test_index_b_is_legal : Instr.wellFormed (.cfgwr 0xB 0) = true := by decide
theorem test_index_c_is_refused : Instr.wellFormed (.cfgwr 0xC 0) = false := by decide

/-! ## Decoding, words written out from R66 and L2-E -/

theorem test_decode_nop : decoded 0b0000_0000000000000000000000000000#32 = some .nop := by decide
theorem test_decode_start : decoded 0b0001_0000000000000000000000000000#32 = some .start := by decide
theorem test_decode_frame : decoded 0b0010_0000000000000000000000000000#32 = some .frame := by decide
theorem test_decode_end : decoded 0b0011_0000000000000000000000000000#32 = some .endStream := by decide
theorem test_decode_stop : decoded 0b0100_0000000000000000000000000000#32 = some .stop := by decide
theorem test_decode_inject :
    decoded 0b0101_000000000000_01100100_00000011#32 = some (.inject 3 100) := by decide
theorem test_decode_symbol :
    decoded 0b0110_00000000000000000000000000_10#32 = some (.symbol .clock) := by decide
theorem test_decode_edge :
    decoded 0b0111_00000000000000000000000000_1_0#32 = some (.edge false true) := by decide
theorem test_decode_bit : decoded 0b1000_000000000000000000000000000_1#32 = some (.bit true) := by decide
theorem test_decode_deriv :
    decoded 0b1001_0000000000000000000_1_00000111#32 = some (.deriv .d1 7) := by decide
theorem test_decode_cfgwr :
    decoded 0b1010_00000000_1010_0000000000110001#32 = some (.cfgwr 0xA 0x31) := by decide
theorem test_decode_clrerr :
    decoded 0b1011_0000000000000000000000_001000#32 = some (.clrerr 0x08) := by decide

theorem test_reserved_bit_of_each_format :
    ([0x00000001, 0x18000000, 0x50010000, 0x60000004, 0x70000004, 0x80000002, 0x90000200, 0xA0100000,
      0xB0000040] : List Word).map rejected = List.replicate 9 (some .reservedBits) := by decide
theorem test_reserved_index : rejected 0xA00C0000#32 = some .reservedIndex := by decide
theorem test_reserved_opcodes :
    ([0xC0000000, 0xD0000000, 0xE0000000, 0xF0000000] : List Word).map rejected =
      List.replicate 4 (some .reservedOpcode) := by decide

/-! ## Encoding and assembly lines (R73, R74, programs P2 and P3) -/

theorem test_encode_inject : encode (.inject 0 100) = 0x50006400#32 := by decide
theorem test_encode_deriv : encode (.deriv .d1 255) = 0x900001FF#32 := by decide
theorem test_text_inject : assembleText "INJECT 100, 0" = some [0x50000064#32] := by decide
theorem test_text_hex : assembleText "CFGWR LENS, 0x31" = some [0xA00A0031#32] := by decide
theorem test_text_hex_letters : assembleText "CFGWR 0x0b, 0x5Af" = some [0xA00B05AF#32] := by decide
theorem test_text_letter_is_no_decimal : assembleText "BIT a" = none := by decide
theorem test_text_space_inside_an_operand : assembleText "BIT 0 1" = none := by decide
theorem test_text_spaces_around_operands : assembleText "  EDGE  0 ,1  " = some [0x70000002#32] := by decide
theorem test_text_setlens : assembleText "SETLENS 1, 3" = some [0xA00A0031#32] := by decide
theorem test_text_setregion : assembleText "SETREGION CLK, 2, 4, 0, 2" =
    some [0xA0040002#32, 0xA0050004#32, 0xA0060000#32, 0xA0070002#32] := by decide
theorem test_text_range : assembleText "BIT 2" = none := by decide

/-! ## Frames -/

theorem test_frame_is_canonical : Frame.wf twoPixels := by decide
theorem test_pixel_reads_as_set : pixRead twoPixels 1 0 = some ⟨200, 0, 0⟩ := by decide
theorem test_pixel_outside : pixRead twoPixels 2 0 = none := by decide

/-! ## Sampler (L2-S) -/

/-- 4x1, G at x = 0..3 is 10, 20, 30, 41. -/
def fourGreens : Frame :=
  setPixel (setPixel (setPixel (setPixel ⟨4, 1, []⟩ 0 0 ⟨0, 10, 0⟩) 1 0 ⟨0, 20, 0⟩) 2 0 ⟨0, 30, 0⟩) 3 0 ⟨0, 41, 0⟩

/-- The sample, if sampling does not stop. -/
def sampled (f : Frame) (r : Region) (n : Nat) (draw : Nat → Coord) : Option Pixel :=
  match sample f r n draw with
  | .ok p => some p
  | .error _ => none

theorem test_sample_truncates :
    sampled fourGreens ⟨0, 4, 0, 1⟩ 4 (fun k => ⟨k, 0⟩) = some ⟨0, 25, 0⟩ := by decide
theorem test_sample_one_pixel :
    sampled fourGreens ⟨0, 4, 0, 1⟩ 4 (fun _ => ⟨3, 0⟩) = some ⟨0, 41, 0⟩ := by decide
theorem test_valid_regions :
    ([⟨540, 640, 0, 480⟩, ⟨540, 641, 0, 480⟩, ⟨100, 100, 0, 480⟩, ⟨200, 100, 0, 480⟩, ⟨0, 640, 479, 480⟩,
      ⟨0, 640, 0, 481⟩, ⟨639, 640, 479, 480⟩] : List Region).map (fun r => regionValid r ⟨640, 480, []⟩) =
      [true, false, false, false, true, false, true] := by decide

/-! ## Classifier (L2-C) and debouncer (R101, L2-D) -/

theorem test_classify_counts_one :
    [(19, 19), (20, 19), (0, 20), (20, 0), (61, 61), (60, 61), (61, 60), (30, 30), (0, 0), (255, 255)].map
      (fun v => classify 20 60 ⟨v.1, 1⟩ ⟨v.2, 1⟩) =
      [.neither, .signal, .clock, .signal, .both, .clock, .signal, .signal, .neither, .both] := by decide
theorem test_classify_counts_three :
    [(59, 0), (60, 0), (183, 180), (183, 181)].map (fun v => classify 20 60 ⟨v.1, 3⟩ ⟨v.2, 3⟩) =
      [.neither, .signal, .signal, .both] := by decide
theorem test_classify_low_above_high : classify 100 50 ⟨70, 1⟩ ⟨70, 1⟩ = .neither := by decide
theorem test_plurality_tie_to_the_latest :
    plurality [.signal, .signal, .clock, .clock, .neither] = .clock := by decide
theorem test_plurality_rejects_a_glitch :
    plurality [.clock, .clock, .clock, .clock, .neither] = .clock := by decide

/-! ## Operations, each on one step -/

theorem test_nop : after (exec .nop live) (fun s => s) = some live := by decide
theorem test_start_status : after (exec .start State.reset) (fun s => readReg s 0x10) = some 0x00020001 := by
  decide
theorem test_start_without_source :
    after (exec .start (presenting (State.reset.setSource false) 0x10000000))
      (fun s => (s.active, s.err, s.errInfo, s.errWord)) = some (false, 0x02, 2, 0x10000000) := by decide
theorem test_end_drops_pending :
    after (exec .endStream (pending [true, true, false])) (fun s => (s.active, s.ses.pend, s.sink)) =
      some (false, [], [.eos]) := by decide
theorem test_end_idle : after (exec .endStream State.reset) (fun s => (s.err, s.sink)) = some (0x10, []) := by
  decide
theorem test_stop_drops_pending :
    after (exec .stop (pending [true, true, false])) (fun s => (s.active, s.ses.pend, s.sink)) =
      some (false, [], []) := by decide
theorem test_frame_selected_channels :
    after (exec .frame (framing twoPixels [⟨0, 0⟩, ⟨0, 0⟩]))
      (fun s => (readReg s 0x12, readReg s 0x13, s.ses.rawSym, s.ses.pend)) =
      some (0x0100C800, 0x010000C8, .both, [true]) := by decide
theorem test_frame_invalid_region :
    after (exec .frame (framing ⟨1, 1, []⟩ [])) (fun s => (s.err, s.errInfo, s.errWord, s.ses)) =
      some (0x01, 1, 0x20000000, live.ses) := by decide
theorem test_inject_both :
    after (exec (.inject 100 100) live) (fun s => (s.ses.rawSym, s.ses.debSym, s.ses.pend)) =
      some (.both, .both, [true]) := by decide
theorem test_inject_evicts :
    after (exec (.inject 40 40) (smoothing 3 [10, 20, 30])) (fun s => readReg s 0x14) = some 0x305A := by decide
theorem test_symbol_first_edge :
    after (exec (.symbol .both) live) (fun s => (s.ses.win, s.ses.debSym, s.ses.prevClock, s.ses.pend)) =
      some ([.both], .both, true, [true]) := by decide
theorem test_symbol_window_register :
    after (exec (.symbol .neither) (debouncing 5 [.signal, .signal, .clock, .clock]))
      (fun s => (readReg s 0x1A, s.ses.debSym)) = some (0x0A5, .clock) := by decide
theorem test_edge_falling :
    after (exec (.edge false false) (live.setSes { live.ses with prevClock := true }))
      (fun s => (s.ses.prevClock, s.ses.lastBitValid, s.ses.pend)) = some (false, true, [false]) := by decide
theorem test_edge_hold :
    after (exec (.edge true true) (live.setSes { live.ses with prevClock := true, lastBitValid := true }))
      (fun s => (s.ses.prevClock, s.ses.lastBitValid, s.ses.pend)) = some (true, false, []) := by decide
theorem test_bit_completes_a5 :
    after (exec (.bit true) (pending [true, false, true, false, false, true, false]))
      (fun s => (s.sink, s.ses.pend, readReg s 0x17)) = some ([.byte 0xA5], [], 0x1A5) := by decide
theorem test_bit_pending_register :
    after (exec (.bit true) (pending [true, false, true, true, false, false]))
      (fun s => (readReg s 0x16, s.sink)) = some (0x59, []) := by decide
theorem test_deriv_negative :
    after (exec (.deriv .d0 3) (live.setSes { live.ses with d0 := ⟨15, true, 5, true⟩ }))
      (fun s => readReg s 0x18) = some 0x0303FFF4 := by decide
theorem test_deriv_first_push :
    after (exec (.deriv .d1 255) live) (fun s => (readReg s 0x18, readReg s 0x19)) =
      some (0, 0xFF020000) := by decide
theorem test_cfgwr_chan : after (exec (.cfgwr 0x8 6) State.reset) (fun s => (s.cfg.sigCh, s.cfg.clkCh)) =
    some (.blue, .green) := by decide
theorem test_cfgwr_locked_before_bad :
    after (exec (.cfgwr 0xA 0) live) (fun s => (s.errInfo, readReg s 0x0A)) = some (4, 0x51) := by decide
theorem test_clrerr : after (exec (.clrerr 0x08) (live.setErrors 0x0C 4 7)) (fun s => (s.err, s.errInfo, s.errWord)) =
    some (0x04, 4, 7) := by decide

/-! ## Steps -/

theorem test_step_runs_the_presented_word :
    after (step (State.reset.withFetchWord 32 0x10000000)) (fun s => (s.active, s.port, s.position)) =
      some (true, [], 1) := by decide
theorem test_step_illegal_before_not_active :
    after (step (State.reset.withFetchWord 32 0x20000001)) (fun s => (s.err, s.errInfo, s.errWord)) =
      some (0x04, 3, 0x20000001) := by decide
theorem test_step_reset_keeps_the_sink :
    after (step ((live.emit .eos).setPort [.reset])) (fun s => (s.active, s.sink)) = some (false, [.eos]) := by decide
theorem test_driver_without_source :
    (driverStream false [⟨1, 1, []⟩]).length = 2 := by decide

/-- Log 10: followed to the letter, the operation rules reach an idle state with a window longer than DEB_LEN. -/
theorem test_idle_window_longer_than_its_length :
    after (execAll [.start, .symbol .both, .symbol .both, .stop, .cfgwr 0xA 0x11] State.reset)
      (fun s => (s.ses.win.length, s.cfg.debLen)) = some (2, 1) := by decide

/-! ## The hypotheses of the statements can be met -/

theorem witness_DecodeAfterEncode : Instr.wellFormed (.cfgwr 0x0 0xFFFF) = true := by decide
theorem witness_EncodeAfterDecode : decode 0xA00BFFFF#32 = .ok (.cfgwr 0xB 0xFFFF) := by rfl
theorem witness_IllegalWord_opcode : illegalKind (presented (presenting State.reset 0xC0000000)).word := by
  unfold illegalKind; decide
theorem witness_IllegalWord_reserved : illegalKind (presented (presenting live 0xB0000040)).word := by
  unfold illegalKind; decide
theorem witness_IllegalWord_index : illegalKind (presented (presenting live 0xA00C0000)).word := by
  unfold illegalKind; decide
theorem witness_StepConsumesAnIllegalWord :
    (presenting live 0xC0000000).port = .op ⟨0xC0000000, ⟨0, 0, []⟩, [], []⟩ :: [] ∧ illegalKind 0xC0000000 :=
  ⟨rfl, by unfold illegalKind; decide⟩
theorem witness_AssemblyLinesRoundTrip : Instr.wellFormed (.symbol .both) = true := by decide
theorem witness_StepRunsTheDecodedOperation :
    (presenting live 0x80000001).port = .op ⟨0x80000001, ⟨0, 0, []⟩, [], []⟩ :: [] ∧
      decode 0x80000001#32 = .ok (.bit true) := ⟨rfl, rfl⟩
theorem witness_StepWithoutAnOperation :
    State.reset.port = [] ∧ (live.setPort [.source false]).port = .source false :: [] := by decide
theorem witness_ResetRestoresPowerOnValues : (live.setPort [.reset]).port = .reset :: [] := by decide
theorem witness_OperationsLeaveTheirInputs : exec (.bit true) (pending []) = .next (pending [true]) := rfl
theorem witness_OnlyAnInadmissibleOracleAnswerStops :
    refusal (exec .frame (framing twoPixels [⟨1, 0⟩])) = some .oracleOutsideRegion := by decide
theorem witness_Errors_1 : expectedError .frame (framing ⟨1, 1, []⟩ []) = some 1 := by decide
theorem witness_Errors_2 : expectedError .start (State.reset.setSource false) = some 2 := by decide
theorem witness_Errors_3 : expectedError (.cfgwr 0xC 0) State.reset = some 3 := by decide
theorem witness_Errors_4 : expectedError (.cfgwr 0xA 0) live = some 4 := by decide
theorem witness_Errors_5 : expectedError (.deriv .d0 0) State.reset = some 5 := by decide
theorem witness_Errors_6 : expectedError (.cfgwr 0x8 0xC) live = some 6 := by decide
theorem witness_NoErrorLeavesTheErrorFields : expectedError (.bit true) (pending []) = none ∧
    exec (.bit true) (pending []) = .next (pending [true]) ∧ ∀ mask, Instr.bit true ≠ .clrerr mask :=
  ⟨by decide, rfl, fun _ h => by cases h⟩
theorem witness_StartInitialisesTheSession : live.srcAvailable = true := by decide
theorem witness_active : live.active = true := by decide
theorem witness_CfgwrStoresTheNamedRegister :
    ([(0x0, 0xFFFF), (0x7, 0), (0x8, 6), (0x9, 0x5A0A), (0xA, 0xFF), (0xB, 0xFFFF)] : List (BitVec 4 × Half)).all
      (fun c => decide (c.1.toNat < 12) && !illegalValue c.1 c.2) = true ∧ State.reset.active = false := by decide
theorem witness_ConfigurationWrittenOnlyByCfgwr : exec (.bit true) (pending []) = .next (pending [true]) ∧
    ∀ idx data, Instr.bit true ≠ .cfgwr idx data := ⟨rfl, fun _ _ h => by cases h⟩
theorem witness_WindowLengthsFixedDuringASession :
    live.active = true ∧ exec (.cfgwr 0x9 0) live = .next (live.setCfg { live.cfg with low := 0, high := 0 }) :=
  ⟨rfl, rfl⟩
theorem witness_SessionsChange_start : exec .start State.reset = .next live ∧ live.active ≠ State.reset.active :=
  ⟨rfl, by decide⟩
theorem witness_SessionsChange_end : exec .endStream live = .next (State.reset.emit .eos) ∧
    (State.reset.emit .eos).active ≠ live.active := ⟨rfl, by decide⟩
theorem witness_SessionsChange_stop : exec .stop live = .next State.reset ∧ State.reset.active ≠ live.active :=
  ⟨rfl, by decide⟩
theorem witness_SessionFieldsWrittenOnlyByTheirStages : exec .nop live = .next live ∧ Instr.nop ≠ .start ∧
    Instr.nop ≠ .frame ∧ Instr.opcode .nop ∉ [.frame, .inject, .symbol, .edge, .bit, .endStream, .stop] ∧
    (∀ v, Instr.nop ≠ .deriv .d0 v) ∧ (∀ v, Instr.nop ≠ .deriv .d1 v) :=
  ⟨rfl, by decide, by decide, by decide, (fun _ h => by cases h), (fun _ h => by cases h)⟩
theorem witness_DerivKeepsTheExactDifference :
    live.ses.d0.hasPrev = false ∧
      (live.setSes { live.ses with d0 := ⟨255, true, 0, false⟩ }).ses.d0.hasPrev = true := by decide
theorem witness_ClassifierComparesTheMeans_neither : (0 : ℕ) < 3 ∧ (59 : ℚ) / 3 < 20 := by norm_num
theorem witness_ClassifierComparesTheMeans_both : ¬ ((183 : ℚ) / 3 < 20) ∧ (60 : ℚ) < 183 / 3 ∧ (60 : ℚ) < 181 / 3 := by
  norm_num
theorem witness_ClassifierComparesTheMeans_clock : ¬ ((60 : ℚ) < 60 / 1) ∧ (60 : ℚ) / 1 < 61 / 1 := by norm_num
theorem witness_ClassifierComparesTheMeans_signal : ¬ ((20 : ℚ) / 1 < 20) ∧ (30 : ℚ) / 1 ≤ 30 / 1 := by norm_num
theorem witness_BitAppendsOrCompletesTheByte :
    (pending (List.replicate 6 true)).active = true ∧ (pending (List.replicate 6 true)).ses.pend.length < 7 ∧
      (pending (List.replicate 7 true)).active = true ∧ (pending (List.replicate 7 true)).ses.pend.length = 7 := by
  decide
theorem witness_ConvertIsMostSignificantFirst :
    [true, false, false, false, false, false, false, false].length = 8 := by decide
theorem witness_BitStreamBecomesBytesInOrder : live.active = true ∧ live.ses.pend = [] := by decide
theorem witness_EdgeLatchesOnAClockToggle : live.active = true ∧ false = live.ses.prevClock ∧
    true ≠ live.ses.prevClock := by decide
theorem witness_DebouncerPicksThePluralityLatestOnTies :
    [Symbol.signal, .signal, .clock, .clock] ≠ [] ∧
      [Symbol.signal, .signal, .clock, .clock].count .signal =
        [Symbol.signal, .signal, .clock, .clock].count (plurality [.signal, .signal, .clock, .clock]) ∧
      Symbol.signal ≠ plurality [.signal, .signal, .clock, .clock] := by decide
theorem witness_SymbolDebouncesThenRunsTheEdgeStage :
    (debouncing 2 [.signal, .clock]).active = true ∧
      [Symbol.clock, .both] =
        (if (debouncing 2 [.signal, .clock]).ses.win.length + 1 ≤ (debouncing 2 [.signal, .clock]).cfg.debLen.toNat
          then (debouncing 2 [.signal, .clock]).ses.win ++ [Symbol.both]
          else ((debouncing 2 [.signal, .clock]).ses.win ++ [Symbol.both]).tail) := by decide
theorem witness_DebouncerSettlesOnARun :
    live.active = true ∧ live.cfg.debLen ≠ 0 ∧ live.ses.win.length ≤ live.cfg.debLen.toNat ∧
      live.cfg.debLen.toNat ≤ 5 := by decide
theorem witness_DebouncerDelayIsHalfTheWindow :
    (debouncing 5 (List.replicate 5 .clock)).active = true ∧ (debouncing 5 (List.replicate 5 .clock)).cfg.debLen ≠ 0 ∧
      Symbol.clock ≠ .signal ∧ (debouncing 5 (List.replicate 5 .clock)).ses.win =
        List.replicate (debouncing 5 (List.replicate 5 .clock)).cfg.debLen.toNat .clock ∧ 0 < 3 := by decide
theorem witness_ShortDebouncersAreTransparent :
    (debouncing 2 [.signal, .clock]).active = true ∧ (debouncing 2 [.signal, .clock]).cfg.debLen = 2 ∧
      (debouncing 2 [.signal, .clock]).ses.win.length ≤ (debouncing 2 [.signal, .clock]).cfg.debLen.toNat ∧
      (debouncing 1 [.signal]).cfg.debLen = 1 ∧ (debouncing 1 [.signal]).ses.win.length ≤ 1 := by decide
theorem witness_InjectSmoothsClassifiesThenRunsSymbol :
    (smoothing 3 [10, 20, 30]).active = true ∧
      ([20, 30, 40] : List Byte) =
        (if (smoothing 3 [10, 20, 30]).ses.qs.length + 1 ≤ (smoothing 3 [10, 20, 30]).cfg.smoothLen.toNat
          then (smoothing 3 [10, 20, 30]).ses.qs ++ [40]
          else ((smoothing 3 [10, 20, 30]).ses.qs ++ [40]).tail) ∧
      ([20, 30, 40] : List Byte) =
        (if (smoothing 3 [10, 20, 30]).ses.qc.length + 1 ≤ (smoothing 3 [10, 20, 30]).cfg.smoothLen.toNat
          then (smoothing 3 [10, 20, 30]).ses.qc ++ [40]
          else ((smoothing 3 [10, 20, 30]).ses.qc ++ [40]).tail) := by decide
theorem witness_SmootherHoldsTheLastPushes : live.active = true ∧ live.ses.qs = [] ∧ live.ses.qc = [] := by decide
theorem witness_SmootherStepLag :
    (smoothing 3 [7, 7, 7]).active = true ∧ 2 ≤ (smoothing 3 [7, 7, 7]).cfg.smoothLen.toNat ∧
      (smoothing 3 [7, 7, 7]).ses.qs = List.replicate (smoothing 3 [7, 7, 7]).cfg.smoothLen.toNat 7 ∧
      (smoothing 3 [7, 7, 7]).ses.qc = List.replicate (smoothing 3 [7, 7, 7]).cfg.smoothLen.toNat 7 := by decide
theorem witness_SmootherOfLengthOnePassesThrough :
    (smoothing 1 [7]).active = true ∧ (smoothing 1 [7]).cfg.smoothLen = 1 ∧ (smoothing 1 [7]).ses.qs.length ≤ 1 ∧
      (smoothing 1 [7]).ses.qc.length ≤ 1 := by decide

/-- The pinned answers of `framing` lie in their one-pixel regions. -/
theorem witness_answersInside : answersInside (framing twoPixels [⟨0, 0⟩]) := by
  intro id k hk c hc
  have hk2 : k < 2 := hk
  interval_cases k <;> cases id <;> simp [framing, presented, pinnedDraws, live, State.reset] at hc <;>
    subst hc <;> decide

theorem witness_FrameSamplesThenRunsInject :
    (framing twoPixels [⟨0, 0⟩]).active = true ∧ (framing twoPixels [⟨0, 0⟩]).cfg.nsamples ≠ 0 ∧
      outsideFrame (framing twoPixels [⟨0, 0⟩]).cfg.sigRegion (currentFrame (framing twoPixels [⟨0, 0⟩])) = false ∧
      outsideFrame (framing twoPixels [⟨0, 0⟩]).cfg.clkRegion (currentFrame (framing twoPixels [⟨0, 0⟩])) = false := by
  decide

theorem witness_UniformRegionsDoNotDependOnTheOracle :
    (∀ x y, regionContains (framing twoPixels []).cfg.sigRegion ⟨x, y⟩ = true →
      pixRead (currentFrame (framing twoPixels [])) x y = some ⟨0, 200, 0⟩) ∧
    (∀ x y, regionContains (framing twoPixels []).cfg.clkRegion ⟨x, y⟩ = true →
      pixRead (currentFrame (framing twoPixels [])) x y = some ⟨200, 0, 0⟩) := by
  constructor
  · intro x y h
    simp [regionContains, framing] at h
    obtain ⟨rfl, rfl⟩ := h
    decide
  · intro x y h
    simp [regionContains, framing] at h
    obtain ⟨⟨h1, h2⟩, rfl⟩ := h
    have hx : x = 1 := by omega
    subst hx
    decide

theorem witness_OracleAdmitsExactlyTheRegion :
    (⟨639, 640, 479, 480⟩ : Region).x0.toNat < (⟨639, 640, 479, 480⟩ : Region).x1.toNat ∧
      (⟨639, 640, 479, 480⟩ : Region).y0.toNat < (⟨639, 640, 479, 480⟩ : Region).y1.toNat := by decide
theorem witness_AtMostOneEventPerOperation_idle : State.reset.active = false ∧
    exec .nop State.reset = .next State.reset := ⟨rfl, rfl⟩
theorem witness_AtMostOneEventPerOperation_eos : exec .endStream live = .next (State.reset.emit .eos) ∧
    (State.reset.emit .eos).sink = live.sink ++ [.eos] := ⟨rfl, rfl⟩
theorem witness_StepKeepsTheInvariant : live.Inv ∧ step live = .next live :=
  ⟨⟨by decide, by decide, by decide, by decide, by decide, by decide, by decide, by decide,
    fun _ h => nomatch h⟩, rfl⟩
theorem witness_InjectionDependsOnTheSessionAlone :
    (∀ i ∈ [Instr.inject 1 2, .symbol .both, .edge true true, .bit true], isInjection i = true) ∧
      live.ses = (live.setSource false).ses ∧ live.active = (live.setSource false).active := by decide
theorem witness_RestartForgetsThePast :
    Instr.frame ∉ [Instr.bit true, .endStream] ∧ (pending [true]).cfg = State.reset.cfg ∧
      (pending [true]).srcAvailable = true ∧ State.reset.srcAvailable = true := by decide
theorem witness_StatusRegisterFields :
    (pending (List.replicate 7 true)).ses.pend.length ≤ 7 ∧
      (debouncing 15 (List.replicate 15 .both)).ses.win.length ≤ 15 := by decide
theorem witness_SmootherRegistersShowSumAndCount :
    (smoothing 15 (List.replicate 15 255)).ses.qs.length ≤ 15 ∧
      (smoothing 15 (List.replicate 15 255)).ses.qc.length ≤ 15 := by decide
theorem witness_PendingRegisterShowsTheBits_full :
    (pending [true, false, false, false, false, false, true]).ses.pend.length = 7 := by decide
theorem witness_PendingRegistersDetermineTheBits :
    (pending [false, true]).ses.pend.length ≤ 7 ∧
      (readReg (pending [false, true]) 0x10).extractLsb' 2 3 =
        (readReg ((pending [false, true]).setSource true) 0x10).extractLsb' 2 3 ∧
      readReg (pending [false, true]) 0x16 = readReg ((pending [false, true]).setSource true) 0x16 := by decide
theorem witness_DebouncerWindowIsReadable :
    (debouncing 15 (List.replicate 15 .both)).ses.win.length ≤ 15 ∧
      14 < (debouncing 15 (List.replicate 15 .both)).ses.win.length := by decide

end Sys2Proof.Tests
end

section
/-! What an operation that answers a next state has done, said once for every operation. -/

namespace Sys2Proof.Machine

/-- `Effect s i t`: `t` is one of the next states that `i` can answer from `s`, a constructor for each operation's
effect and one for a recorded error. -/
inductive Effect (s : State) : Instr → State → Prop
  /-- The error that R139's order gives is recorded (R132). -/
  | raised (i : Instr) (e : ErrorKind) (expected : expectedError i s = some (errorCode e).toNat) :
      Effect s i (raise e s)
  | nop : Effect s .nop s
  | start (source : s.srcAvailable = true) : Effect s .start ((sessionInit s).setActive true)
  | frame (cs cc : Pixel) (live : s.active = true) (sig : sampleRegion s .sig = .ok cs)
      (clk : sampleRegion s .clk = .ok cc) :
      Effect s .frame
        (pipeFromSmoother (cs.lane s.cfg.sigCh) (cc.lane s.cfg.clkCh) (storeSamples cs cc s))
  | endStream (live : s.active = true) : Effect s .endStream ((closeSession s).emit .eos)
  | stop (live : s.active = true) : Effect s .stop (closeSession s)
  | inject (sv cv : Byte) (live : s.active = true) : Effect s (.inject sv cv) (pipeFromSmoother sv cv s)
  | symbol (r : Symbol) (live : s.active = true) : Effect s (.symbol r) (symbolStage r s)
  | edge (sig clk : Bool) (live : s.active = true) : Effect s (.edge sig clk) (edgeStage sig clk s)
  | bit (b : Bool) (live : s.active = true) : Effect s (.bit b) (asmPush b s)
  | deriv (u : DerivUnit) (v : Byte) (live : s.active = true) : Effect s (.deriv u v) (derivStage u v s)
  | cfgwr (idx : BitVec 4) (data : Half) (c : Configuration)
      (written : configWrite s.active s.cfg idx data = .ok c) : Effect s (.cfgwr idx data) (s.setCfg c)
  | clrerr (mask : BitVec 6) : Effect s (.clrerr mask) (s.setErrFlags (clearErrorFlags s.err mask))

/-- Outside a session a legal operation that needs one is expected to raise NOT_ACTIVE (R136). -/
theorem expectedError_idle {i : Instr} {s : State} (hw : i.wellFormed = true) (hn : needsSession i = true)
    (ha : s.active = false) : expectedError i s = some (errorCode .notActive).toNat := by
  simp [expectedError, hw, hn, ha, errorCode]

/-- A gated operation has its effect in a session and raises NOT_ACTIVE outside one (R136). -/
theorem effect_of_inSession {i : Instr} {s t : State} {o : StepOutcome} (hw : i.wellFormed = true)
    (hn : needsSession i = true) (h : inSession s o = .next t)
    (heff : s.active = true → o = .next t → Effect s i t) : Effect s i t := by
  obtain ⟨ha, ho⟩ | ⟨ha, rfl⟩ := inSession_cases h
  · exact heff ha ho
  · exact .raised i .notActive (expectedError_idle hw hn ha)

/-- A gated operation that answers a fixed next state has that effect in a session (R136). -/
theorem effect_of_inSession_next {i : Instr} {s t u : State} (hw : i.wellFormed = true)
    (hn : needsSession i = true) (h : inSession s (.next u) = .next t)
    (heff : s.active = true → Effect s i u) : Effect s i t :=
  effect_of_inSession hw hn h fun ha ho => by
    cases ho
    exact heff ha

/-- FRAME with valid regions answers a next state only where both regions were sampled (R121). -/
theorem frameSampled_eq_next {s t : State} (h : frameSampled s = .next t) :
    ∃ cs cc, sampleRegion s .sig = .ok cs ∧ sampleRegion s .clk = .ok cc ∧
      t = pipeFromSmoother (cs.lane s.cfg.sigCh) (cc.lane s.cfg.clkCh) (storeSamples cs cc s) := by
  unfold frameSampled at h
  cases hs : sampleRegion s .sig with
  | error e => cases e <;> simp [hs, stopSampling] at h
  | ok cs =>
    cases hc : sampleRegion s .clk with
    | error e => cases e <;> simp [hs, hc, stopSampling] at h
    | ok cc =>
      simp only [hs, hc, Host.Outcome.next.injEq] at h
      exact ⟨cs, cc, rfl, rfl, h.symm⟩

/-- In a session, a frame that one of the regions does not fit is expected to raise INVALID_REGION (R139). -/
theorem expectedError_frame {s : State} (ha : s.active = true)
    (ho : outsideFrame s.cfg.sigRegion (currentFrame s) = true ∨
      outsideFrame s.cfg.clkRegion (currentFrame s) = true) :
    expectedError .frame s = some (errorCode .invalidRegion).toNat := by
  have hw : Instr.frame.wellFormed = true := rfl
  obtain h | h := ho <;> simp [expectedError, hw, ha, h, errorCode]

/-- In a session FRAME raises INVALID_REGION or has its effect (R121). -/
theorem execFrame_effect {s t : State} (ha : s.active = true) (h : execFrame s = .next t) :
    Effect s .frame t := by
  obtain ⟨ho, hr⟩ | ⟨-, -, hf⟩ := execFrame_cases s ha
  · cases hr.symm.trans h
    exact .raised _ .invalidRegion (expectedError_frame ha ho)
  · rw [hf] at h
    obtain ⟨cs, cc, hs, hc, rfl⟩ := frameSampled_eq_next h
    exact .frame cs cc ha hs hc

/-- START raises SOURCE_UNAVAILABLE or has its effect (R126). -/
theorem execStart_effect {s t : State} (h : execStart s = .next t) : Effect s .start t := by
  cases hs : s.srcAvailable with
  | true =>
    have hx : execStart s = .next ((sessionInit s).setActive true) := if_pos hs
    cases hx.symm.trans h
    exact .start hs
  | false =>
    have hx : execStart s = .next (raise .sourceUnavailable s) := by simp [execStart, hs]
    cases hx.symm.trans h
    exact .raised _ .sourceUnavailable (by
      simp [expectedError, Instr.wellFormed, needsSession, Instr.opcode, hs, errorCode])

/-- The configuration that a CFGWR with no error stores: coordinates, channels, thresholds, lengths (when idle) or
the number of draws, the last two with legal operands (R129, R32 to R36). -/
theorem configWrite_ok_cases {active : Bool} {c c' : Configuration} {idx : BitVec 4} {data : Half}
    (h : configWrite active c idx data = .ok c') :
    (c' = writeCoordinate c idx.toNat data) ∨
    (∃ sig clk, chanOperand data = some (sig, clk) ∧ c' = { c with sigCh := sig, clkCh := clk }) ∨
    (c' = { c with low := (threshOperand data).1, high := (threshOperand data).2 }) ∨
    (∃ smooth deb, active = false ∧ lensOperand data = some (smooth, deb) ∧
      c' = { c with smoothLen := smooth, debLen := deb }) ∨
    (∃ n, nsamplesOperand data = some n ∧ c' = { c with nsamples := n }) := by
  unfold configWrite at h
  split at h
  · split at h <;> grind
  · grind
  · split at h <;> grind
  · split at h <;> grind
  · split at h <;> grind

/-- What is expected of a CFGWR that names a legal register, from whether the register is locked and whether its
value is illegal (R139). -/
theorem expectedError_cfgwr {s : State} {idx : BitVec 4} {data : Half} (hi : legalIndex idx = true) :
    expectedError (.cfgwr idx data) s =
      if idx.toNat = 0xA ∧ s.active = true then some 4
      else if illegalValue idx data = true then some 6 else none := by
  simp [expectedError, Instr.wellFormed, needsSession, Instr.opcode, hi]

/-- A CFGWR that is not locked is expected to raise BAD_CONFIG on an illegal value (R139). -/
theorem expectedError_cfgwr_illegalValue {s : State} {idx : BitVec 4} {data : Half}
    (hi : legalIndex idx = true) (hfree : ¬ (idx.toNat = 0xA ∧ s.active = true))
    (hv : illegalValue idx data = true) :
    expectedError (.cfgwr idx data) s = some (errorCode .badConfig).toNat := by
  rw [expectedError_cfgwr hi, if_neg hfree, if_pos hv]
  rfl

/-- A CFGWR that stores nothing raises the error that R139's order gives (R129). -/
theorem expectedError_of_configWrite_error {s : State} {idx : BitVec 4} {data : Half} {e : ErrorKind}
    (h : configWrite s.active s.cfg idx data = .error e) :
    expectedError (.cfgwr idx data) s = some (errorCode e).toNat := by
  unfold configWrite at h
  split at h
  next hidx =>
    obtain rfl : idx = 0x8 := BitVec.eq_of_toNat_eq hidx
    cases ho : chanOperand data with
    | some p => simp [ho] at h
    | none =>
      simp only [ho, Except.error.injEq] at h
      subst h
      exact expectedError_cfgwr_illegalValue rfl (by simp) ((chanOperand_none data).mp ho)
  next => cases h
  next hidx =>
    obtain rfl : idx = 0xA := BitVec.eq_of_toNat_eq hidx
    cases ha : s.active with
    | true =>
      simp only [ha, if_true, Except.error.injEq] at h
      subst h
      rw [expectedError_cfgwr rfl, if_pos ⟨rfl, ha⟩]
      rfl
    | false =>
      cases ho : lensOperand data with
      | some p => simp [ha, ho] at h
      | none =>
        simp only [ha, ho, Bool.false_eq_true, if_false, Except.error.injEq] at h
        subst h
        exact expectedError_cfgwr_illegalValue rfl (by simp [ha]) ((lensOperand_none data).mp ho)
  next hidx =>
    obtain rfl : idx = 0xB := BitVec.eq_of_toNat_eq hidx
    cases ho : nsamplesOperand data with
    | some p => simp [ho] at h
    | none =>
      simp only [ho, Except.error.injEq] at h
      subst h
      exact expectedError_cfgwr_illegalValue rfl (by simp) ((nsamplesOperand_none data).mp ho)
  next h8 h9 hA hB =>
    split at h
    · cases h
    next hge =>
      have hi : legalIndex idx = false := by
        simp only [imp_false] at h8 h9 hA hB
        simp only [legalIndex, decide_eq_false_iff_not]
        omega
      injection h with h
      simp [expectedError, Instr.wellFormed, hi, ← h, errorCode]

/-- CFGWR raises an error or stores its configuration (R129). -/
theorem execCfgwr_effect {s t : State} {idx : BitVec 4} {data : Half} (h : execCfgwr idx data s = .next t) :
    Effect s (.cfgwr idx data) t := by
  obtain ⟨c, hc, hx⟩ | ⟨e, he, hx⟩ := execCfgwr_cases idx data s
  · cases hx.symm.trans h
    exact .cfgwr idx data c hc
  · cases hx.symm.trans h
    exact .raised _ e (expectedError_of_configWrite_error he)

/-- An operation that answers a next state has recorded the expected error or had its effect. -/
theorem exec_effect {i : Instr} {s t : State} (h : exec i s = .next t) : Effect s i t := by
  cases i with
  | nop => cases h; exact .nop
  | start => exact execStart_effect h
  | frame => exact effect_of_inSession rfl rfl h fun ha _ => execFrame_effect ha h
  | endStream => exact effect_of_inSession_next rfl rfl h (.endStream)
  | stop => exact effect_of_inSession_next rfl rfl h (.stop)
  | inject sv cv => exact effect_of_inSession_next rfl rfl h (.inject sv cv)
  | symbol r => exact effect_of_inSession_next rfl rfl h (.symbol r)
  | edge sig clk => exact effect_of_inSession_next rfl rfl h (.edge sig clk)
  | bit b => exact effect_of_inSession_next rfl rfl h (.bit b)
  | deriv u v => exact effect_of_inSession_next rfl rfl h (.deriv u v)
  | cfgwr idx data => exact execCfgwr_effect h
  | clrerr mask => cases h; exact .clrerr mask

/-! ## What the stages leave of the session -/

/-- BIT's stage writes the pending bits and the last byte only (R111). -/
theorem asmPush_ses_frame (b : Bool) (s : State) :
    ∃ x : Session, (asmPush b s).ses =
      { s.ses with pend := x.pend, lastByte := x.lastByte, lastByteValid := x.lastByteValid } := by
  obtain ⟨-, h⟩ | ⟨-, h⟩ := asmPush_cases s b <;> rw [h]
  · exact ⟨{ s.ses with pend := [], lastByte := convert (s.ses.pend ++ [b]), lastByteValid := true }, rfl⟩
  · exact ⟨{ s.ses with pend := s.ses.pend ++ [b] }, rfl⟩

/-- EDGE's stages write the extractor's fields and those of BIT's stage only (R104, R109). -/
theorem edgeStage_ses_frame (sig clk : Bool) (s : State) :
    ∃ x : Session, (edgeStage sig clk s).ses =
      { s.ses with
        prevClock := x.prevClock, lastBit := x.lastBit, lastBitValid := x.lastBitValid
        pend := x.pend, lastByte := x.lastByte, lastByteValid := x.lastByteValid } := by
  by_cases hc : clk = s.ses.prevClock
  · rw [edgeStage_hold s sig clk hc]
    exact ⟨{ s.ses with prevClock := clk, lastBitValid := false }, rfl⟩
  · rw [edgeStage_toggle s sig clk hc]
    obtain ⟨x, hx⟩ := asmPush_ses_frame sig
      (s.setSes { s.ses with prevClock := clk, lastBit := sig, lastBitValid := true })
    exact ⟨{ x with prevClock := clk, lastBit := sig, lastBitValid := true }, hx⟩

/-- SYMBOL's stages leave the sample fields, the smoothers and the derivative units (R102). -/
theorem symbolStage_ses_frame (r : Symbol) (s : State) :
    ∃ x : Session, (symbolStage r s).ses =
      { x with
        sampleSig := s.ses.sampleSig, sampleClk := s.ses.sampleClk, qs := s.ses.qs, qc := s.ses.qc
        d0 := s.ses.d0, d1 := s.ses.d1 } := by
  obtain ⟨x, hx⟩ := edgeStage_ses_frame (signalHalf (debouncePush r s).ses.debSym)
    (clockHalf (debouncePush r s).ses.debSym) (debouncePush r s)
  exact ⟨(symbolStage r s).ses, by rw [symbolStage, hx]; rfl⟩

/-- INJECT's stages leave the sample fields and the derivative units (R122). -/
theorem pipeFromSmoother_ses_frame (sv cv : Byte) (s : State) :
    ∃ x : Session, (pipeFromSmoother sv cv s).ses =
      { x with
        sampleSig := s.ses.sampleSig, sampleClk := s.ses.sampleClk, d0 := s.ses.d0, d1 := s.ses.d1 } := by
  obtain ⟨x, hx⟩ := symbolStage_ses_frame (classified (smoothPush sv cv s)) (smoothPush sv cv s)
  exact ⟨(pipeFromSmoother sv cv s).ses, by rw [pipeFromSmoother, hx]; rfl⟩

/-- A push into one derivative unit leaves the other (R96). -/
theorem derivStage_ses (u : DerivUnit) (v : Byte) (s : State) :
    (u = .d0 ∧ (derivStage u v s).ses = { s.ses with d0 := derivPush s.ses.d0 v }) ∨
    (u = .d1 ∧ (derivStage u v s).ses = { s.ses with d1 := derivPush s.ses.d1 v }) := by
  cases u with
  | d0 => exact .inl ⟨rfl, rfl⟩
  | d1 => exact .inr ⟨rfl, rfl⟩

end Sys2Proof.Machine
end

section
/-! What operations change and what they leave (R15, R16, R28 item 5, R17 to R26): each case of `Effect` read off
its next state. -/

namespace Sys2Proof.Machine

/-- Settles O15: a recorded error would have been expected, and of the other effects only CLRERR's writes an error
field. -/
theorem noErrorLeavesTheErrorFields : Obligations.NoErrorLeavesTheErrorFields := by
  intro i s t hnone h
  cases exec_effect h with
  | raised _ e he => simp [hnone] at he
  | clrerr mask => exact ⟨rfl, rfl, fun hi => absurd rfl (hi mask)⟩
  | _ => simp

/-- Settles O22: every effect but CFGWR's is made of updates that leave the configuration. -/
theorem configurationWrittenOnlyByCfgwr : Obligations.ConfigurationWrittenOnlyByCfgwr := by
  intro i s t h hi
  cases exec_effect h with
  | cfgwr idx data => exact absurd rfl (hi idx data)
  | _ => simp

/-- In a session a CFGWR leaves both window lengths (R137). -/
theorem configWrite_live_keeps_lengths {c c' : Configuration} {idx : BitVec 4} {data : Half}
    (h : configWrite true c idx data = .ok c') : c'.smoothLen = c.smoothLen ∧ c'.debLen = c.debLen := by
  obtain rfl | ⟨_, _, -, rfl⟩ | rfl | ⟨_, _, hidle, -⟩ | ⟨_, -, rfl⟩ := configWrite_ok_cases h
  · obtain ⟨-, -, -, -, hs, hd, -⟩ := writeCoordinate_rest c idx.toNat data
    exact ⟨hs, hd⟩
  · exact ⟨rfl, rfl⟩
  · exact ⟨rfl, rfl⟩
  · cases hidle
  · exact ⟨rfl, rfl⟩

/-- Settles O23: CFGWR alone writes the configuration, and in a session it cannot write LENS. -/
theorem windowLengthsFixedDuringASession : Obligations.WindowLengthsFixedDuringASession := by
  intro i s t ha h
  cases exec_effect h with
  | cfgwr idx data c hc => exact configWrite_live_keeps_lengths (ha ▸ hc)
  | _ => simp

/-- Settles O24: the effects of START, END and STOP are the only ones that write ACTIVE. -/
theorem sessionsChangeOnlyByStartEndStop : Obligations.SessionsChangeOnlyByStartEndStop := by
  intro i s t h hne
  cases exec_effect h with
  | start source => exact .inl ⟨rfl, source, rfl⟩
  | endStream => exact .inr ⟨.inl rfl, rfl⟩
  | stop => exact .inr ⟨.inr rfl, rfl⟩
  | _ => simp at hne

/-- Settles O25, by the frame of each stage. -/
theorem sessionFieldsWrittenOnlyByTheirStages : Obligations.SessionFieldsWrittenOnlyByTheirStages := by
  intro i s t h hstart
  cases exec_effect h with
  | start => exact absurd rfl hstart
  | frame cs cc =>
    obtain ⟨x, hx⟩ := pipeFromSmoother_ses_frame (cs.lane s.cfg.sigCh) (cc.lane s.cfg.clkCh)
      (storeSamples cs cc s)
    simp [Instr.opcode, hx]
  | inject sv cv =>
    obtain ⟨x, hx⟩ := pipeFromSmoother_ses_frame sv cv s
    simp [Instr.opcode, hx]
  | symbol r =>
    obtain ⟨x, hx⟩ := symbolStage_ses_frame r s
    simp [Instr.opcode, hx]
  | edge sig clk =>
    obtain ⟨x, hx⟩ := edgeStage_ses_frame sig clk s
    simp [Instr.opcode, hx]
  | bit b =>
    obtain ⟨x, hx⟩ := asmPush_ses_frame b s
    simp [Instr.opcode, hx]
  | deriv u v => obtain ⟨rfl, hx⟩ | ⟨rfl, hx⟩ := derivStage_ses u v s <;> simp [hx]
  | _ => simp [Instr.opcode]

end Sys2Proof.Machine
end

section
/-! The invariant of the OFD (R28): what each update and each stage keeps of it. -/

namespace Sys2Proof.Machine

/-! ## At reset -/

/-- Settles O47, field by field. -/
theorem powerOnMeetsTheInvariant : Obligations.PowerOnMeetsTheInvariant where
  legal := by decide
  bounded := by decide
  within := by decide
  pendIdle := fun _ => rfl
  d0 := by decide
  d1 := by decide
  valid := by decide
  errors := by decide
  frames := fun _ h => nomatch h

/-! ## Windows and derivative units -/

/-- A 4-bit window length is at most the largest (R8, R35). -/
theorem toNat_le_maxWindow (len : BitVec 4) : len.toNat ≤ Config.maxWindow :=
  Nat.le_of_lt_succ len.isLt

/-- Pushing two windows of one length keeps their lengths equal (R82, R87). -/
theorem windowPush_length_congr {α β : Type} (len : Nat) {p : List α} {q : List β} (a : α) (b : β)
    (h : p.length = q.length) : (windowPush len p a).length = (windowPush len q b).length := by
  rw [windowPush_length, windowPush_length, h]

/-- The exact difference of two bytes fits a derivative unit's 9 bits (R96). -/
theorem toInt_byteDifference (v p : Byte) :
    (BitVec.ofInt 9 ((v.toNat : Int) - (p.toNat : Int))).toInt = (v.toNat : Int) - (p.toNat : Int) := by
  have hv := v.isLt
  have hp := p.isLt
  rw [BitVec.toInt_ofInt, Int.bmod_eq_of_le] <;> omega

/-- A pushed derivative unit is consistent (R25, R96). -/
theorem derivPush_consistent (u : DerivState) (v : Byte) : (derivPush u v).consistent := by
  obtain ⟨-, h⟩ | ⟨-, h⟩ := derivPush_cases u v <;> rw [h]
  · have hv := v.isLt
    have hp := u.prev.isLt
    have hd := toInt_byteDifference v u.prev
    refine ⟨nofun, nofun, ?_, ?_⟩ <;> simp only [hd] <;> omega
  · exact ⟨nofun, fun _ => rfl, by simp, by simp⟩

/-! ## Error fields -/

/-- An error's code is 1 to 6 (R131). -/
theorem errorCode_legal (e : ErrorKind) : (errorCode e).toNat ≤ 6 ∧ errorCode e ≠ 0#4 := by
  cases e <;> decide

/-- A recorded error leaves legal error fields (R131, R132). -/
theorem raise_keeps_inv {s : State} (h : s.Inv) (e : ErrorKind) : (raise e s).Inv := by
  obtain ⟨hle, hne⟩ := errorCode_legal e
  exact { h with errors := ⟨hle, fun hi => absurd hi hne⟩ }

/-- Clearing flags keeps the error fields legal: with no error since power-on there is no flag to clear (R130). -/
theorem clearErrorFlags_keeps_inv {s : State} (h : s.Inv) (mask : BitVec 6) :
    (s.setErrFlags (clearErrorFlags s.err mask)).Inv := by
  obtain ⟨hcode, hzero⟩ := h.errors
  refine { h with errors := ⟨hcode, fun hi => ?_⟩ }
  obtain ⟨herr, hword⟩ := hzero hi
  exact ⟨by simp [herr, clearErrorFlags], hword⟩

/-! ## Configuration -/

/-- LENS's legal operands are lengths of at least 1 (R35). -/
theorem lensOperand_ne_zero {data : Half} {smooth deb : BitVec 4} (h : lensOperand data = some (smooth, deb)) :
    smooth ≠ 0#4 ∧ deb ≠ 0#4 := by
  unfold lensOperand at h
  split at h
  · cases h
  next hlegal =>
    push Not at hlegal
    cases h
    exact hlegal.2

/-- NSAMPLES's legal operand is at least 1 (R36). -/
theorem nsamplesOperand_ne_zero {data n : Half} (h : nsamplesOperand data = some n) : n ≠ 0#16 := by
  unfold nsamplesOperand at h
  split at h <;> grind

/-- A CFGWR that stores keeps the configuration legal (R137). -/
theorem configWrite_keeps_legal {active : Bool} {c c' : Configuration} {idx : BitVec 4} {data : Half}
    (hc : c.legal) (h : configWrite active c idx data = .ok c') : c'.legal := by
  obtain ⟨hs, hd, hn⟩ := hc
  obtain rfl | ⟨_, _, -, rfl⟩ | rfl | ⟨_, _, -, hl, rfl⟩ | ⟨_, hl, rfl⟩ := configWrite_ok_cases h
  · obtain ⟨-, -, -, -, es, ed, en⟩ := writeCoordinate_rest c idx.toNat data
    rw [Configuration.legal, es, ed, en]
    exact ⟨hs, hd, hn⟩
  · exact ⟨hs, hd, hn⟩
  · exact ⟨hs, hd, hn⟩
  · obtain ⟨hs', hd'⟩ := lensOperand_ne_zero hl
    exact ⟨hs', hd', hn⟩
  · exact ⟨hs, hd, nsamplesOperand_ne_zero hl⟩

/-- A CFGWR that stores keeps the invariant: a session's windows stay within its lengths, which it cannot write. -/
theorem configWrite_keeps_inv {s : State} {c : Configuration} {idx : BitVec 4} {data : Half} (h : s.Inv)
    (hc : configWrite s.active s.cfg idx data = .ok c) : (s.setCfg c).Inv := by
  refine { h with legal := configWrite_keeps_legal h.legal hc, within := fun ha => ?_ }
  have ha : s.active = true := ha
  obtain ⟨hs, hd⟩ := configWrite_live_keeps_lengths (ha ▸ hc)
  obtain ⟨hq, hw⟩ := h.within ha
  exact ⟨by simpa [hs] using hq, by simpa [hd] using hw⟩

/-! ## Sessions -/

/-- START's session meets the invariant (R49, R126). -/
theorem startSession_keeps_inv {s : State} (h : s.Inv) : ((sessionInit s).setActive true).Inv :=
  { h with
    bounded := powerOnMeetsTheInvariant.bounded
    within := fun _ => ⟨Nat.zero_le _, Nat.zero_le _⟩
    pendIdle := nofun
    d0 := powerOnMeetsTheInvariant.d0
    d1 := powerOnMeetsTheInvariant.d1
    valid := powerOnMeetsTheInvariant.valid }

/-- Ending a session keeps the invariant (R127, R128). -/
theorem closeSession_keeps_inv {s : State} (h : s.Inv) : (closeSession s).Inv := by
  obtain ⟨hq, hqs, hw, -⟩ := h.bounded
  exact { h with
    bounded := ⟨hq, hqs, hw, Nat.zero_le 7⟩
    within := nofun
    pendIdle := fun _ => rfl }

/-- The sink's history plays no part in the invariant. -/
theorem emit_keeps_inv {s : State} (h : s.Inv) (e : SinkEvent) : (s.emit e).Inv :=
  ⟨h.legal, h.bounded, h.within, h.pendIdle, h.d0, h.d1, h.valid, h.errors, h.frames⟩

/-- A derivative stage keeps the invariant (R96). -/
theorem derivStage_keeps_inv {s : State} (h : s.Inv) (u : DerivUnit) (v : Byte) : (derivStage u v s).Inv := by
  cases u with
  | d0 => exact { h with d0 := derivPush_consistent s.ses.d0 v }
  | d1 => exact { h with d1 := derivPush_consistent s.ses.d1 v }

/-! ## The stages of the pipeline -/

/-- Storing both samples keeps the invariant (R121). -/
theorem storeSamples_keeps_inv {s : State} (h : s.Inv) (cs cc : Pixel) : (storeSamples cs cc s).Inv := by
  obtain ⟨hraw, -, hrawInit, -, hbyte⟩ := h.valid
  exact { h with valid := ⟨hraw, rfl, hrawInit, nofun, hbyte⟩ }

/-- In a session the assembler keeps the invariant: the eighth bit empties the pending bits (R111). -/
theorem asmPush_keeps_inv {s : State} (h : s.Inv) (ha : s.active = true) (b : Bool) : (asmPush b s).Inv := by
  obtain ⟨hq, hqs, hw, hp⟩ := h.bounded
  obtain ⟨hraw, hsample, hrawInit, hsampleInit, -⟩ := h.valid
  have hlive : s.active ≠ false := by simp [ha]
  obtain ⟨-, heq⟩ | ⟨hshort, heq⟩ := asmPush_cases s b <;> rw [heq]
  · refine emit_keeps_inv ?_ _
    exact { h with
      bounded := ⟨hq, hqs, hw, Nat.zero_le 7⟩
      pendIdle := fun hi => absurd hi hlive
      valid := ⟨hraw, hsample, hrawInit, hsampleInit, nofun⟩ }
  · exact { h with
      bounded := ⟨hq, hqs, hw, by simp; omega⟩
      pendIdle := fun hi => absurd hi hlive }

/-- The extractor's own fields play no part in the invariant. -/
theorem edgeLatch_keeps_inv {s : State} (h : s.Inv) (clk lastBit valid : Bool) :
    (s.setSes { s.ses with prevClock := clk, lastBit := lastBit, lastBitValid := valid }).Inv :=
  ⟨h.legal, h.bounded, h.within, h.pendIdle, h.d0, h.d1, h.valid, h.errors, h.frames⟩

/-- In a session the extractor and the assembler keep the invariant (R104, R109). -/
theorem edgeStage_keeps_inv {s : State} (h : s.Inv) (ha : s.active = true) (sig clk : Bool) :
    (edgeStage sig clk s).Inv := by
  by_cases hc : clk = s.ses.prevClock
  · rw [edgeStage_hold s sig clk hc]
    exact edgeLatch_keeps_inv h clk s.ses.lastBit false
  · rw [edgeStage_toggle s sig clk hc]
    exact asmPush_keeps_inv (edgeLatch_keeps_inv h clk sig true) ha sig

/-- In a session the debouncer keeps the invariant (R97, R102). -/
theorem debouncePush_keeps_inv {s : State} (h : s.Inv) (ha : s.active = true) (r : Symbol) :
    (debouncePush r s).Inv := by
  obtain ⟨hq, hqs, -, hp⟩ := h.bounded
  obtain ⟨hsmooth, hdeb⟩ := h.within ha
  obtain ⟨-, hsample, -, hsampleInit, hbyte⟩ := h.valid
  have hw : (windowPush s.cfg.debLen.toNat s.ses.win r).length ≤ s.cfg.debLen.toNat :=
    windowPush_length_le _ _ r hdeb
  exact { h with
    bounded := ⟨hq, hqs, hw.trans (toNat_le_maxWindow _), hp⟩
    within := fun _ => ⟨hsmooth, hw⟩
    valid := ⟨rfl, hsample, nofun, hsampleInit, hbyte⟩ }

/-- In a session with a raw symbol the smoothers keep the invariant (R82, R87). -/
theorem smoothPush_keeps_inv {s : State} (h : s.Inv) (ha : s.active = true) (hr : s.ses.rawValid = true)
    (sv cv : Byte) : (smoothPush sv cv s).Inv := by
  obtain ⟨hq, -, hw, hp⟩ := h.bounded
  obtain ⟨hsmooth, hdeb⟩ := h.within ha
  obtain ⟨hraw, hsample, -, hsampleInit, hbyte⟩ := h.valid
  have hqs : (windowPush s.cfg.smoothLen.toNat s.ses.qs sv).length ≤ s.cfg.smoothLen.toNat :=
    windowPush_length_le _ _ sv hsmooth
  exact { h with
    bounded := ⟨windowPush_length_congr _ sv cv hq, hqs.trans (toNat_le_maxWindow _), hw, hp⟩
    within := fun _ => ⟨hqs, hdeb⟩
    valid := ⟨hraw, hsample, fun hi => absurd (hr.symm.trans hi) nofun, hsampleInit, hbyte⟩ }

/-- In a session SYMBOL's stages keep the invariant (R102). -/
theorem symbolStage_keeps_inv {s : State} (h : s.Inv) (ha : s.active = true) (r : Symbol) :
    (symbolStage r s).Inv :=
  edgeStage_keeps_inv (debouncePush_keeps_inv h ha r) ha _ _

/-- The debouncer and the smoothers write different fields, so their order does not matter for a given symbol. -/
theorem debouncePush_smoothPush_comm (r : Symbol) (sv cv : Byte) (s : State) :
    debouncePush r (smoothPush sv cv s) = smoothPush sv cv (debouncePush r s) := rfl

/-- In a session INJECT's stages keep the invariant (R122). Between the two pushes the smoothers hold a value and
there is no raw symbol yet, so the debouncer's push is taken first. -/
theorem pipeFromSmoother_keeps_inv {s : State} (h : s.Inv) (ha : s.active = true) (sv cv : Byte) :
    (pipeFromSmoother sv cv s).Inv := by
  rw [pipeFromSmoother, symbolStage, debouncePush_smoothPush_comm]
  exact edgeStage_keeps_inv (smoothPush_keeps_inv (debouncePush_keeps_inv h ha _) ha rfl sv cv) ha _ _

/-! ## Operations and steps -/

/-- Every operation that answers a next state keeps the invariant. -/
theorem exec_keeps_inv {i : Instr} {s t : State} (h : s.Inv) (hx : exec i s = .next t) : t.Inv := by
  cases exec_effect hx with
  | raised _ e => exact raise_keeps_inv h e
  | nop => exact h
  | start => exact startSession_keeps_inv h
  | frame cs cc ha => exact pipeFromSmoother_keeps_inv (storeSamples_keeps_inv h cs cc) ha _ _
  | endStream => exact emit_keeps_inv (closeSession_keeps_inv h) .eos
  | stop => exact closeSession_keeps_inv h
  | inject sv cv ha => exact pipeFromSmoother_keeps_inv h ha sv cv
  | symbol r ha => exact symbolStage_keeps_inv h ha r
  | edge sig clk ha => exact edgeStage_keeps_inv h ha sig clk
  | bit b ha => exact asmPush_keeps_inv h ha b
  | deriv u v => exact derivStage_keeps_inv h u v
  | cfgwr idx data c hc => exact configWrite_keeps_inv h hc
  | clrerr mask => exact clearErrorFlags_keeps_inv h mask

/-- The frames of the inputs still to come are canonical. -/
theorem framesWf_tail {s : State} (h : s.Inv) : ∀ e ∈ s.port.tail, e.framesWf :=
  fun e he => h.frames e (List.mem_of_mem_tail he)

/-- Consuming the presented operation keeps the invariant (R62). -/
theorem retire_keeps_inv {s : State} (h : s.Inv) : s.retire.Inv := { h with frames := framesWf_tail h }

/-- A change of SRC_AVAILABLE keeps the invariant (R134). -/
theorem sourceChange_keeps_inv {s : State} (h : s.Inv) (b : Bool) : (sourceChange b s).Inv :=
  { h with frames := framesWf_tail h }

/-- RESET leads to a state that meets the invariant (R48). -/
theorem powerOnReset_inv {s : State} (h : s.Inv) : (powerOnReset s).Inv :=
  { powerOnMeetsTheInvariant with frames := framesWf_tail h }

/-- Settles O46, by what each kind of step does to the state. -/
theorem stepKeepsTheInvariant : Obligations.StepKeepsTheInvariant := by
  intro s t h hs
  obtain ⟨-, rfl⟩ | ⟨o, rest, -, hword⟩ | ⟨b, rest, -, rfl⟩ | ⟨rest, -, rfl⟩ := step_cases hs
  · exact h
  · obtain ⟨e, -, rfl⟩ | ⟨i, u, -, hu, rfl⟩ := hword
    · exact retire_keeps_inv (raise_keeps_inv h .illegalOp)
    · exact retire_keeps_inv (exec_keeps_inv h hu)
  · exact sourceChange_keeps_inv h b
  · exact powerOnReset_inv h

end Sys2Proof.Machine
end

section
/-! Fields of a register read back, in whole, from the word they are placed in. -/

namespace Sys2Proof

/-- A placed field reads back at its own place. -/
@[simp] theorem extractLsb'_placeField_same {n : Nat} (lo : Nat) (v : BitVec n) (h : lo + n ≤ 32) :
    (placeField lo v).extractLsb' lo n = v := by
  ext j hj
  simp [hj, show lo + j < 32 by omega]

/-- A placed field reads 0 everywhere else. -/
@[simp] theorem extractLsb'_placeField_other {n : Nat} (lo : Nat) (v : BitVec n) (lo' len : Nat)
    (h : lo' + len ≤ lo ∨ lo + n ≤ lo') : (placeField lo v).extractLsb' lo' len = 0 := by
  ext j hj
  simp only [BitVec.getElem_extractLsb', getLsbD_placeField]
  obtain h | h := h
  · simp [show ¬ lo ≤ lo' + j by omega]
  · simp [BitVec.getLsbD_of_ge v (lo' + j - lo) (by omega)]

end Sys2Proof

namespace Sys2Proof.Machine

/-! ## Power-on -/

/-- RESET shows on the read port what the power-on state shows at the same SRC_AVAILABLE level (R48, R31). -/
theorem readReg_powerOnReset (s : State) (idx : BitVec 5) :
    readReg (powerOnReset s) idx = readReg (State.reset.setSource s.srcAvailable) idx := rfl

/-- The registers at power-on (R15, R31 to R47). -/
theorem readReg_powerOn (b : Bool) (idx : BitVec 5) :
    readReg (State.reset.setSource b) idx =
      if idx = 0x08#5 then 0x00000001#32
      else if idx = 0x09#5 then 0x00003C14#32
      else if idx = 0x0A#5 then 0x00000051#32
      else if idx = 0x0B#5 then 0x000003E8#32
      else if idx = 0x10#5 then (if b then 0x00020000#32 else 0x00000000#32)
      else if idx = 0x1D#5 then 0x4F464401#32
      else 0x00000000#32 := by
  revert b idx
  decide

/-- Settles O11: the fields are those of the power-on state, and its registers are tabled. -/
theorem resetRestoresPowerOnValues : Obligations.ResetRestoresPowerOnValues := by
  intro s rest hp
  have hstep : step s = .next (powerOnReset s) := by rw [step, runPort, hp]
  exact ⟨powerOnReset s, hstep, rfl, rfl, rfl, rfl, rfl, rfl, rfl,
    fun idx => (readReg_powerOnReset s idx).trans (readReg_powerOn s.srcAvailable idx)⟩

/-- Settles O9: consuming the operation is the only thing a step adds to `exec`. -/
theorem stepRunsTheDecodedOperation : Obligations.StepRunsTheDecodedOperation := by
  intro s o rest i hp hd
  have hstep : step s = retireOutcome (exec i s) := by simp only [step, runPort, hp, runWord, hd]
  rw [hstep]
  cases exec i s <;> rfl

/-- Settles O18: START's gate is open. -/
theorem startInitialisesTheSession : Obligations.StartInitialisesTheSession := by
  intro s hs
  exact if_pos hs

/-! ## The registers of one state (R31) -/

variable (s : State)

theorem readReg_status : readReg s 0x10 = statusReg s := rfl
theorem readReg_err : readReg s 0x11 = errReg s := rfl
theorem readReg_sampleSig : readReg s 0x12 = sampleReg s.ses.sampleSig := rfl
theorem readReg_sampleClk : readReg s 0x13 = sampleReg s.ses.sampleClk := rfl
theorem readReg_smoothSig : readReg s 0x14 = smoothReg s.ses.qs := rfl
theorem readReg_smoothClk : readReg s 0x15 = smoothReg s.ses.qc := rfl
theorem readReg_pending : readReg s 0x16 = pendingReg s.ses := rfl
theorem readReg_lastByte : readReg s 0x17 = lastByteReg s.ses := rfl
theorem readReg_deriv0 : readReg s 0x18 = derivReg s.ses.d0 := rfl
theorem readReg_deriv1 : readReg s 0x19 = derivReg s.ses.d1 := rfl
theorem readReg_debWin : readReg s 0x1A = debWinReg s.ses.win := rfl
theorem readReg_errInfo : readReg s 0x1B = errInfoReg s := rfl

end Sys2Proof.Machine
end

section
/-! The read-only registers (R38 to R47): each field of each register. -/

namespace Sys2Proof.Machine

/-! ## ERR, SAMPLE, LAST_BYTE, ERR_INFO, ERR_WORD, ID and the reserved indices -/

/-- A sample register shows its colour and its valid bit, and 0 in its other bits (R40). -/
theorem sampleReg_fields (x : SampleField) :
    (sampleReg x).extractLsb' 0 8 = x.color.ch0 ∧ (sampleReg x).extractLsb' 8 8 = x.color.ch1 ∧
      (sampleReg x).extractLsb' 16 8 = x.color.ch2 ∧ (sampleReg x).getLsbD 24 = x.valid ∧
      (sampleReg x).extractLsb' 25 7 = 0 := by
  refine ⟨?_, ?_, ?_, ?_, ?_⟩ <;> simp [sampleReg, BitVec.extractLsb'_or]

/-- LAST_BYTE shows the byte and its valid bit, and 0 in its other bits (R43). -/
theorem lastByteReg_fields (x : Session) :
    (lastByteReg x).extractLsb' 0 8 = x.lastByte ∧ (lastByteReg x).getLsbD 8 = x.lastByteValid ∧
      (lastByteReg x).extractLsb' 9 23 = 0 := by
  refine ⟨?_, ?_, ?_⟩ <;> simp [lastByteReg, BitVec.extractLsb'_or]

/-- Settles O55, register by register. -/
theorem otherReadOnlyRegisters : Obligations.OtherReadOnlyRegisters := by
  intro s
  rw [readReg_err, readReg_sampleSig, readReg_sampleClk, readReg_lastByte, readReg_errInfo]
  refine ⟨⟨?_, ?_⟩, sampleReg_fields _, sampleReg_fields _, lastByteReg_fields _, ⟨?_, ?_⟩, rfl, rfl, ?_⟩
  · simp [errReg]
  · simp [errReg]
  · simp [errInfoReg]
  · simp [errInfoReg]
  · intro idx hidx
    fin_cases hidx <;> rfl

/-! ## Derivative units -/

/-- A derivative register shows its unit's difference in 9 bits and, sign extended, in 16, its two flags and the
previous value, and 0 in its other bits (R44). -/
theorem derivReg_fields (u : DerivState) :
    ((derivReg u).extractLsb' 0 16).toInt = u.diff.toInt ∧ (derivReg u).getLsbD 16 = u.valid ∧
      (derivReg u).getLsbD 17 = u.hasPrev ∧ (derivReg u).extractLsb' 18 6 = 0 ∧
      (derivReg u).extractLsb' 24 8 = u.prev := by
  refine ⟨?_, ?_, ?_, ?_, ?_⟩
  · simp [derivReg, BitVec.extractLsb'_or, BitVec.toInt_signExtend_of_le]
  all_goals simp [derivReg, BitVec.extractLsb'_or]

/-- The low 9 bits of a derivative register are the difference as the unit holds it (R44). -/
theorem derivReg_diff (u : DerivState) : (derivReg u).extractLsb' 0 9 = u.diff := by
  have hlow : (placeField 0 (u.diff.signExtend 16)).extractLsb' 0 9 = u.diff := by
    ext j hj
    simp [BitVec.getElem_signExtend, hj, show j < 16 by omega, show j < 32 by omega]
  simp [derivReg, BitVec.extractLsb'_or, hlow]

/-- Settles O54: both registers have the fields of their unit. -/
theorem derivativeRegisterFields : Obligations.DerivativeRegisterFields := by
  refine ⟨by decide, fun s => ?_⟩
  rw [readReg_deriv0, readReg_deriv1]
  exact ⟨⟨derivReg_diff _, derivReg_diff _⟩, derivReg_fields _, derivReg_fields _⟩

/-! ## STATUS -/

/-- A count below 2 ^ n is exact in n bits. -/
theorem toNat_ofNat_of_lt {n k : Nat} (h : k < 2 ^ n) : (BitVec.ofNat n k).toNat = k := by
  rw [BitVec.toNat_ofNat, Nat.mod_eq_of_lt h]

/-- STATUS's PEND_CNT field is the number of pending bits (R38). -/
theorem statusReg_pendCnt (s : State) (h : s.ses.pend.length ≤ 7) :
    ((statusReg s).extractLsb' 2 3).toNat = s.ses.pend.length := by
  have hcnt : (pendCnt s.ses).toNat = s.ses.pend.length := toNat_ofNat_of_lt (by omega)
  simpa [statusReg, BitVec.extractLsb'_or] using hcnt

/-- STATUS's DEB_CNT field is the number of symbols in the window (R38). -/
theorem statusReg_debCnt (s : State) (h : s.ses.win.length ≤ 15) :
    ((statusReg s).extractLsb' 13 4).toNat = s.ses.win.length := by
  have hcnt : (debCnt s.ses).toNat = s.ses.win.length := toNat_ofNat_of_lt (by omega)
  simpa [statusReg, BitVec.extractLsb'_or] using hcnt

/-- STATUS's two symbol fields, and 0 above SRC_AVAILABLE (R38). -/
theorem statusReg_symbols (s : State) :
    (statusReg s).extractLsb' 5 2 = s.ses.rawSym.code ∧ (statusReg s).extractLsb' 8 2 = s.ses.debSym.code ∧
      (statusReg s).extractLsb' 18 14 = 0 := by
  refine ⟨?_, ?_, ?_⟩ <;> simp [statusReg, BitVec.extractLsb'_or]

/-- STATUS's one-bit fields (R38). -/
theorem statusReg_bits (s : State) :
    (statusReg s).getLsbD 0 = s.active ∧ (statusReg s).getLsbD 1 = s.ses.prevClock ∧
      (statusReg s).getLsbD 7 = s.ses.rawValid ∧ (statusReg s).getLsbD 10 = s.ses.debValid ∧
      (statusReg s).getLsbD 11 = s.ses.lastBit ∧ (statusReg s).getLsbD 12 = s.ses.lastBitValid ∧
      (statusReg s).getLsbD 17 = s.srcAvailable := by
  refine ⟨?_, ?_, ?_, ?_, ?_, ?_, ?_⟩ <;> simp [statusReg]

/-- Settles O50: the power-on table at 0x10, and the fields of STATUS. -/
theorem statusRegisterFields : Obligations.StatusRegisterFields := by
  refine ⟨fun b => readReg_powerOn b 0x10, fun s hp hw => ?_⟩
  rw [readReg_status]
  obtain ⟨hact, hclk, hraw, hdeb, hbit, hbitValid, hsrc⟩ := statusReg_bits s
  obtain ⟨hrawSym, hdebSym, hzero⟩ := statusReg_symbols s
  exact ⟨hact, hclk, statusReg_pendCnt s hp, hrawSym, hraw, hdebSym, hdeb, hbit, hbitValid,
    statusReg_debCnt s hw, hsrc, hzero⟩

/-! ## The smoothers -/

/-- At most 15 bytes sum to less than 12 bits can hold (R29). -/
theorem windowSum_lt {q : List Byte} (h : q.length ≤ 15) : windowSum q < 2 ^ 12 := by
  have hsum := List.sum_le_card_nsmul (q.map BitVec.toNat) 255 (by
    intro n hn
    obtain ⟨v, -, rfl⟩ := List.mem_map.mp hn
    exact Nat.le_of_lt_succ v.isLt)
  rw [List.length_map, smul_eq_mul] at hsum
  unfold windowSum
  omega

/-- A smoother register shows the exact sum and count of its window, and 0 above them (R41). -/
theorem smoothReg_fields {q : List Byte} (h : q.length ≤ 15) :
    ((smoothReg q).extractLsb' 0 12).toNat = windowSum q ∧
      ((smoothReg q).extractLsb' 12 4).toNat = q.length ∧ (smoothReg q).extractLsb' 16 16 = 0 := by
  have hsum : (BitVec.ofNat 12 (smoothed q).sum).toNat = windowSum q := toNat_ofNat_of_lt (windowSum_lt h)
  have hcnt : (BitVec.ofNat 4 (smoothed q).cnt).toNat = q.length :=
    toNat_ofNat_of_lt (show q.length < 2 ^ 4 by omega)
  unfold smoothReg
  generalize BitVec.ofNat 12 (smoothed q).sum = sum at hsum ⊢
  generalize BitVec.ofNat 4 (smoothed q).cnt = cnt at hcnt ⊢
  refine ⟨?_, ?_, ?_⟩ <;> simp [BitVec.extractLsb'_or, hsum, hcnt]

/-- Settles O51: the counts and sums of at most 15 bytes fit their fields. -/
theorem smootherRegistersShowSumAndCount : Obligations.SmootherRegistersShowSumAndCount := by
  refine ⟨by decide, fun s hs hc => ?_⟩
  rw [readReg_smoothSig, readReg_smoothClk]
  obtain ⟨hsum, hcnt, hzero⟩ := smoothReg_fields hs
  exact ⟨hsum, hcnt, hzero, smoothReg_fields hc⟩

end Sys2Proof.Machine
end

section
/-! PENDING and DEB_WIN: a list packed into a word, and read back from it (R23, R30, R42, R45). -/

namespace Sys2Proof.Machine

/-! ## The pending bits as a number -/

theorem bitsValue_cons (b : Bool) (rest : List Bool) :
    bitsValue (b :: rest) = 2 ^ rest.length * b.toNat + bitsValue rest := by
  rw [bitsValue, Nat.mul_comm]

theorem bitsValue_lt (p : List Bool) : bitsValue p < 2 ^ p.length := by
  induction p with
  | nil => decide
  | cons b rest ih =>
    rw [bitsValue_cons, List.length_cons, Nat.pow_succ]
    cases b <;> simp <;> omega

/-- The bits of the number are the list's, the first the most significant (R23, R112). -/
theorem testBit_bitsValue (p : List Bool) (k : Nat) (hk : k < p.length) :
    (bitsValue p).testBit (p.length - 1 - k) = p.getD k false := by
  induction p generalizing k with
  | nil => cases hk
  | cons b rest ih =>
    rw [bitsValue_cons, Nat.testBit_two_pow_mul_add _ (bitsValue_lt rest), List.length_cons]
    cases k with
    | zero => cases b <;> simp
    | succ k =>
      have hk : k < rest.length := Nat.lt_of_succ_lt_succ hk
      have hpos : rest.length + 1 - 1 - (k + 1) = rest.length - 1 - k := by omega
      rw [hpos, if_pos (by omega), ih k hk, List.getD_cons_succ]

/-- R23's sum, with the position of each bit written out. -/
theorem bitsValue_eq_sum (p : List Bool) :
    bitsValue p =
      ((List.range p.length).map (fun k => (p.getD k false).toNat * 2 ^ (p.length - 1 - k))).sum := by
  induction p with
  | nil => rfl
  | cons b rest ih =>
    have hpos (k : Nat) : rest.length - 1 - k = rest.length - (k + 1) := by omega
    simp [bitsValue, ih, List.range_succ_eq_map, Function.comp_def, hpos]

/-- The number and the count determine the bits (R30). -/
theorem bitsValue_inj {p q : List Bool} (hl : p.length = q.length) (hv : bitsValue p = bitsValue q) : p = q := by
  refine List.ext_getElem hl fun k hp hq => ?_
  have hbit : p.getD k false = q.getD k false := by
    rw [← testBit_bitsValue p k hp, ← testBit_bitsValue q k hq, hv, hl]
  simpa [hp, hq] using hbit

/-! ## PENDING -/

/-- Bits 6 to 0 of PENDING are the pending bits as a number (R42). -/
theorem pendingReg_acc {x : Session} (h : x.pend.length ≤ 7) :
    ((pendingReg x).extractLsb' 0 7).toNat = bitsValue x.pend := by
  have hlt : bitsValue x.pend < 2 ^ 7 :=
    (bitsValue_lt x.pend).trans_le (Nat.pow_le_pow_right (by decide) h)
  rw [pendingReg, extractLsb'_placeField_same 0 _ (by decide), toNat_ofNat_of_lt hlt]

/-- Each bit of PENDING is a bit of that number (R42). -/
theorem pendingReg_getLsbD {x : Session} (h : x.pend.length ≤ 7) {i : Nat} (hi : i < 7) :
    (pendingReg x).getLsbD i = (bitsValue x.pend).testBit i := by
  rw [← pendingReg_acc h, BitVec.testBit_toNat, BitVec.getLsbD_extractLsb']
  simp [hi]

/-- Settles O52: the bits of the packed number are the pending bits, so with the count it determines them. -/
theorem pendingRegistersDetermineTheBits : Obligations.PendingRegistersDetermineTheBits := by
  refine ⟨by decide, fun s hs => ?_, fun s u hs hu hcnt hacc => ?_⟩
  · rw [readReg_pending]
    refine ⟨(pendingReg_acc hs).trans (bitsValue_eq_sum _), fun k hk => ?_, by simp [pendingReg]⟩
    rw [pendingReg_getLsbD hs (by omega), testBit_bitsValue _ k hk]
  · rw [readReg_status, readReg_status] at hcnt
    rw [readReg_pending, readReg_pending] at hacc
    apply bitsValue_inj
    · rw [← statusReg_pendCnt s hs, ← statusReg_pendCnt u hu, hcnt]
    · rw [← pendingReg_acc hs, ← pendingReg_acc hu, hacc]

/-! ## The window as a number -/

theorem packSymbols_lt (w : List Symbol) : packSymbols w < 4 ^ w.length := by
  induction w with
  | nil => decide
  | cons x rest ih =>
    have hx := x.code.isLt
    rw [packSymbols, List.length_cons, Nat.pow_succ]
    omega

/-- The base-4 digits of the number are the codes of the window, the oldest lowest (R45). -/
theorem packSymbols_digit (w : List Symbol) (k : Nat) :
    packSymbols w / 4 ^ k % 4 = (w.getD k .neither).code.toNat := by
  induction w generalizing k with
  | nil => simp [packSymbols, Symbol.code]
  | cons x rest ih =>
    have hx := x.code.isLt
    cases k with
    | zero =>
      simp [packSymbols]
      omega
    | succ k =>
      have hdrop : packSymbols (x :: rest) / 4 = packSymbols rest := by
        rw [packSymbols]
        omega
      rw [Nat.pow_succ', ← Nat.div_div_eq_div_mul, hdrop, ih, List.getD_cons_succ]

/-! ## DEB_WIN -/

/-- A window of at most 15 symbols fits DEB_WIN (R45). -/
theorem debWinReg_toNat {w : List Symbol} (h : w.length ≤ 15) : (debWinReg w).toNat = packSymbols w := by
  have hlt : packSymbols w < 2 ^ 30 :=
    (packSymbols_lt w).trans_le (Nat.pow_le_pow_right (by decide : 0 < 4) h)
  have hlt32 : packSymbols w < 2 ^ 32 := hlt.trans (by decide)
  rw [debWinReg, placeField, BitVec.shiftLeft_zero, BitVec.toNat_setWidth, toNat_ofNat_of_lt hlt,
    Nat.mod_eq_of_lt hlt32]

/-- The field of symbol `k` in DEB_WIN is its code (R45). -/
theorem debWinReg_field {w : List Symbol} (h : w.length ≤ 15) (k : Nat) :
    (debWinReg w).extractLsb' (2 * k) 2 = (w.getD k .neither).code := by
  apply BitVec.eq_of_toNat_eq
  rw [BitVec.extractLsb'_toNat, debWinReg_toNat h, Nat.shiftRight_eq_div_pow, Nat.pow_mul]
  exact packSymbols_digit w k

/-- DEB_WIN is 0 beyond the window (R45). -/
theorem debWinReg_above {w : List Symbol} (h : w.length ≤ 15) {j : Nat} (hj : 2 * w.length ≤ j) :
    (debWinReg w).getLsbD j = false := by
  rw [← BitVec.testBit_toNat, debWinReg_toNat h]
  apply Nat.testBit_lt_two_pow
  calc packSymbols w < 4 ^ w.length := packSymbols_lt w
    _ = 2 ^ (2 * w.length) := by rw [Nat.pow_mul]
    _ ≤ 2 ^ j := Nat.pow_le_pow_right (by decide) hj

/-- Settles O53: the base-4 digits of the packed number are the window's codes. -/
theorem debouncerWindowIsReadable : Obligations.DebouncerWindowIsReadable := by
  refine ⟨by decide, fun s hw => ?_⟩
  rw [readReg_status, readReg_debWin]
  exact ⟨statusReg_debCnt s hw, fun k _ => debWinReg_field hw k, fun j hj => debWinReg_above hw hj⟩

end Sys2Proof.Machine
end

section
/-! The inputs of an operation: what it leaves of them (R51), and the one input that can stop it (R53, R77). -/

namespace Sys2Proof.Machine

/-! ## What an operation leaves of its inputs -/

/-- The frame is presented on the port, so an unchanged port presents an unchanged frame (R51). -/
theorem currentFrame_eq_of_port_eq {s t : State} (h : t.port = s.port) : currentFrame t = currentFrame s := by
  simp only [currentFrame, presented, h]

/-- No effect of an operation writes the port, the SRC_AVAILABLE level or a counter: each is made of updates that
leave them. -/
theorem exec_keeps_inputs {i : Instr} {s t : State} (h : exec i s = .next t) :
    t.port = s.port ∧ t.srcAvailable = s.srcAvailable ∧ t.position = s.position ∧ t.powerCycle = s.powerCycle := by
  cases exec_effect h <;> simp

/-- Settles O12: the port is left, and the frame is read from it. -/
theorem operationsLeaveTheirInputs : Obligations.OperationsLeaveTheirInputs := by
  intro i s t h
  obtain ⟨hport, hsource, hposition, hpower⟩ := exec_keeps_inputs h
  have hframe : currentFrame t = currentFrame s := currentFrame_eq_of_port_eq hport
  exact ⟨hport, hsource, hposition, hpower, fun a => by rw [hframe], fun x y => by rw [hframe]⟩

/-! ## The draws of a valid region -/

/-- The coordinates of a region (R75). -/
theorem regionContains_iff (r : Region) (c : Coord) :
    regionContains r c = true ↔
      r.x0.toNat ≤ c.x ∧ c.x < r.x1.toNat ∧ r.y0.toNat ≤ c.y ∧ c.y < r.y1.toNat := by
  simp only [regionContains, Bool.and_eq_true, decide_eq_true_eq, and_assoc]

/-- An offset reduced by the extent of an interval, added to its lower end, stays below its upper end. -/
theorem add_mod_extent_lt {lo hi : Nat} (h : lo < hi) (n : Nat) : lo + n % (hi - lo) < hi :=
  Nat.add_lt_of_lt_sub' (Nat.mod_lt n (Nat.sub_pos_of_lt h))

/-- A free answer is brought into any region of positive extent (R77, log 4). -/
theorem foldIntoRegion_inside {r : Region} (hx : r.x0.toNat < r.x1.toNat) (hy : r.y0.toNat < r.y1.toNat)
    (c : Coord) : regionContains r (foldIntoRegion r c) = true :=
  (regionContains_iff r _).mpr
    ⟨Nat.le_add_right _ _, add_mod_extent_lt hx c.x, Nat.le_add_right _ _, add_mod_extent_lt hy c.y⟩

/-- A valid region has positive extent on both axes (R76). -/
theorem regionValid_extent {r : Region} {f : Frame} (h : regionValid r f = true) :
    r.x0.toNat < r.x1.toNat ∧ r.y0.toNat < r.y1.toNat := by
  simp only [regionValid, Bool.and_eq_true, decide_eq_true_eq] at h
  obtain ⟨⟨⟨hx, -⟩, hy⟩, -⟩ := h
  exact ⟨hx, hy⟩

/-- In a valid region every draw that FRAME uses lies in the region, if the pinned answers do (R77). -/
theorem drawAnswer_inside {s : State} {id : RegionId} {f : Frame} (hv : regionValid (regionOf s.cfg id) f = true)
    (ha : answersInside s) {k : Nat} (hk : k < s.cfg.nsamples.toNat) :
    regionContains (regionOf s.cfg id) (drawAnswer s id k) = true := by
  unfold drawAnswer
  cases hp : (pinnedDraws (presented s) id)[k]? with
  | some c => exact ha id k hk c hp
  | none =>
    obtain ⟨hx, hy⟩ := regionValid_extent hv
    exact foldIntoRegion_inside hx hy _

/-! ## Where an operation stops -/

/-- In a valid region sampling stops only at a pinned answer outside its region, never at a pixel read (R53). -/
theorem sampleRegion_error {s : State} {id : RegionId} {e : SampleStop}
    (hv : regionValid (regionOf s.cfg id) (currentFrame s) = true) (h : sampleRegion s id = .error e) :
    e = .answerOutsideRegion ∧ ¬ answersInside s := by
  unfold sampleRegion sample at h
  cases hs : sampleSums (currentFrame s) (regionOf s.cfg id) (drawAnswer s id) s.cfg.nsamples.toNat with
  | ok sums => simp [hs] at h
  | error e' =>
    simp only [hs, Except.error.injEq] at h
    subst h
    obtain ⟨he, k, hk, hout⟩ := sampleSums_error hv _ hs
    exact ⟨he, fun ha => by simp [drawAnswer_inside hv ha hk] at hout⟩

/-- With both regions valid FRAME answers a next state, or is refused for an inadmissible pinned answer (R53). -/
theorem frameSampled_cases {s : State} (hv : ∀ id, regionValid (regionOf s.cfg id) (currentFrame s) = true) :
    (∃ t, frameSampled s = .next t) ∨
    (¬ answersInside s ∧ frameSampled s = .refused .oracleOutsideRegion) := by
  unfold frameSampled
  cases hs : sampleRegion s .sig with
  | error e =>
    obtain ⟨rfl, hout⟩ := sampleRegion_error (hv .sig) hs
    exact .inr ⟨hout, rfl⟩
  | ok cs =>
    cases hc : sampleRegion s .clk with
    | error e =>
      obtain ⟨rfl, hout⟩ := sampleRegion_error (hv .clk) hc
      exact .inr ⟨hout, rfl⟩
    | ok cc => exact .inl ⟨_, rfl⟩

/-- FRAME answers a next state but for a refusal, in a session, of an inadmissible pinned answer (R53, R121). -/
theorem execFrame_answers_or_refuses (s : State) :
    (∃ t, execFrame s = .next t) ∨
    (s.active = true ∧ ¬ answersInside s ∧ execFrame s = .refused .oracleOutsideRegion) := by
  cases ha : s.active with
  | false => exact .inl ⟨_, inSession_idle s ha _⟩
  | true =>
    obtain ⟨-, hraise⟩ | ⟨hsig, hclk, hgo⟩ := execFrame_cases s ha
    · exact .inl ⟨_, hraise⟩
    · rw [hgo]
      have hv : ∀ id, regionValid (regionOf s.cfg id) (currentFrame s) = true
        | .sig => by simp [regionValid_eq, regionOf, hsig]
        | .clk => by simp [regionValid_eq, regionOf, hclk]
      obtain hnext | ⟨hout, hrefused⟩ := frameSampled_cases hv
      · exact .inl hnext
      · exact .inr ⟨rfl, hout, hrefused⟩

/-- The session gate before a next state answers a next state in a session and outside one (R136). -/
theorem inSession_next_answers (s u : State) : ∃ t, inSession s (.next u) = .next t := by
  cases ha : s.active with
  | true => exact ⟨_, inSession_active s ha _⟩
  | false => exact ⟨_, inSession_idle s ha _⟩

/-- START answers a next state at either SRC_AVAILABLE level (R126). -/
theorem execStart_answers (s : State) : ∃ t, execStart s = .next t := by
  unfold execStart
  split
  · exact ⟨_, rfl⟩
  · exact ⟨_, rfl⟩

/-- CFGWR answers a next state, stored or not (R129). -/
theorem execCfgwr_answers (idx : BitVec 4) (data : Half) (s : State) : ∃ t, execCfgwr idx data s = .next t := by
  obtain ⟨_, -, h⟩ | ⟨_, -, h⟩ := execCfgwr_cases idx data s
  · exact ⟨_, h⟩
  · exact ⟨_, h⟩

/-- Every operation but FRAME answers a next state in every state. -/
theorem exec_answers {i : Instr} (hi : i ≠ .frame) (s : State) : ∃ t, exec i s = .next t := by
  cases i with
  | nop => exact ⟨_, rfl⟩
  | start => exact execStart_answers s
  | frame => exact absurd rfl hi
  | endStream => exact inSession_next_answers s _
  | stop => exact inSession_next_answers s _
  | inject => exact inSession_next_answers s _
  | symbol => exact inSession_next_answers s _
  | edge => exact inSession_next_answers s _
  | bit => exact inSession_next_answers s _
  | deriv => exact inSession_next_answers s _
  | cfgwr idx data => exact execCfgwr_answers idx data s
  | clrerr => exact ⟨_, rfl⟩

/-- What `exec` can answer: a next state, or FRAME's refusal of an inadmissible pinned answer. -/
theorem exec_answers_or_refuses (i : Instr) (s : State) :
    (∃ t, exec i s = .next t) ∨
    (i = .frame ∧ s.active = true ∧ ¬ answersInside s ∧ exec i s = .refused .oracleOutsideRegion) := by
  by_cases hi : i = .frame
  · subst hi
    obtain hnext | hrefused := execFrame_answers_or_refuses s
    · exact .inl hnext
    · exact .inr ⟨rfl, hrefused⟩
  · exact .inl (exec_answers hi s)

/-- Settles O13: neither answer is a fault, and FRAME's is the one refusal. -/
theorem onlyAnInadmissibleOracleAnswerStops : Obligations.OnlyAnInadmissibleOracleAnswerStops := by
  intro i s
  obtain ⟨t, hnext⟩ | ⟨hi, ha, hout, hrefused⟩ := exec_answers_or_refuses i s
  · simp [hnext]
  · refine ⟨by simp [hrefused], fun r hr => ⟨hi, ?_, ha, hout⟩⟩
    cases hrefused.symm.trans hr
    rfl

end Sys2Proof.Machine
end

section
/-! Encoding and decoding undo each other (R66 to R71). -/

namespace Sys2Proof

/-! ## What decoding answers -/

/-- The index bound of a row: CFGWR's index names a register, and the other rows have no index (R71 item 3). -/
def indexAllowed (op : Opcode) (w : Word) : Prop := op = .cfgwr → legalIndex (idxField w) = true

/-- The decoder's test for a reserved index is where the bound fails. -/
theorem reservedIndex_iff {op : Opcode} {w : Word} :
    (op = .cfgwr ∧ legalIndex (idxField w) = false) ↔ ¬ indexAllowed op w := by
  simp [indexAllowed]

/-- An OPC field selects a row exactly when it is that row's code (R69). -/
theorem opcodeOf_eq_some_iff {opc : BitVec 4} {op : Opcode} : opcodeOf opc = some op ↔ op.code = opc :=
  ⟨opcodeOf_eq_some, fun h => h ▸ opcodeOf_code op⟩

/-- A word decodes exactly when it has a row's OPC field, 0 in that row's reserved bits and an index the row allows,
and then to that row's operation (R70). -/
theorem decode_eq_ok_iff {w : Word} {i : Instr} :
    decode w = .ok i ↔
      ∃ op : Opcode, op.code = opcField w ∧ w &&& reservedMask op.format = 0#32 ∧ indexAllowed op w ∧
        operandsOf op w = i := by
  simp only [← opcodeOf_eq_some_iff, decode]
  cases opcodeOf (opcField w) with
  | none => simp
  | some op =>
    by_cases hres : w &&& reservedMask op.format = 0#32
    · by_cases hidx : indexAllowed op w
      · simp [hres, hidx, reservedIndex_iff]
      · simp [hres, hidx, reservedIndex_iff]
    · simp [hres]

/-- Some operation is decoded exactly when a row fits the word. -/
theorem exists_decode_iff {w : Word} :
    (∃ i, decode w = .ok i) ↔
      ∃ op : Opcode, op.code = opcField w ∧ w &&& reservedMask op.format = 0#32 ∧ indexAllowed op w := by
  simp only [decode_eq_ok_iff]
  exact ⟨fun ⟨_, op, hcode, hres, hidx, _⟩ => ⟨op, hcode, hres, hidx⟩,
    fun ⟨op, hcode, hres, hidx⟩ => ⟨_, op, hcode, hres, hidx, rfl⟩⟩

/-! ## Decoding after encoding -/

/-- The word of an operation has 0 in every reserved bit of its format (R65). -/
theorem encode_and_reservedMask (i : Instr) : encode i &&& reservedMask i.opcode.format = 0#32 := by
  cases i with
  | nop => exact Laws.EncodingKeepsReservedBitsZero.nop.2
  | start => exact Laws.EncodingKeepsReservedBitsZero.start.2
  | frame => exact Laws.EncodingKeepsReservedBitsZero.frame.2
  | endStream => exact Laws.EncodingKeepsReservedBitsZero.endStream.2
  | stop => exact Laws.EncodingKeepsReservedBitsZero.stop.2
  | inject s c => exact (Laws.EncodingKeepsReservedBitsZero.inject s c).2
  | symbol sym => exact (Laws.EncodingKeepsReservedBitsZero.symbol sym).2
  | edge sig clk => exact (Laws.EncodingKeepsReservedBitsZero.edge sig clk).2
  | bit b => exact (Laws.EncodingKeepsReservedBitsZero.bit b).2
  | deriv u v => exact (Laws.EncodingKeepsReservedBitsZero.deriv u v).2
  | cfgwr idx data => exact (Laws.EncodingKeepsReservedBitsZero.cfgwr idx data).2
  | clrerr mask => exact (Laws.EncodingKeepsReservedBitsZero.clrerr mask).2

/-- CFGWR's index reads back from its word (R67). -/
theorem idxField_encode_cfgwr (idx : BitVec 4) (data : Half) : idxField (encode (.cfgwr idx data)) = idx := by
  simp [idxField, encode, operandBits, BitVec.extractLsb'_or]

/-- The word of a legal operation has an index its row allows. -/
theorem indexAllowed_encode {i : Instr} (h : i.wellFormed = true) : indexAllowed i.opcode (encode i) := by
  intro hop
  cases i with
  | cfgwr idx data => rwa [idxField_encode_cfgwr]
  | _ => cases hop

/-- The unit of a unit's bit, as an element (R66). -/
@[simp] theorem derivUnit_ofBit_code_getElem (u : DerivUnit) : DerivUnit.ofBit u.code[0] = u := by
  cases u <;> rfl

/-- Every operand reads back from its place in the word (R66, R67). -/
theorem operandsOf_encode (i : Instr) : operandsOf i.opcode (encode i) = i := by
  cases i with
  | nop | start | frame | endStream | stop => rfl
  | inject s c =>
    simp [Instr.opcode, operandsOf, lowByteField, highByteField, encode, operandBits, BitVec.extractLsb'_or]
  | symbol sym => simp [Instr.opcode, operandsOf, symField, encode, operandBits, BitVec.extractLsb'_or]
  | edge sig clk => simp [Instr.opcode, operandsOf, bit0Field, bit1Field, encode, operandBits]
  | bit b => simp [Instr.opcode, operandsOf, bit0Field, encode, operandBits]
  | deriv u v =>
    simp [Instr.opcode, operandsOf, unitField, lowByteField, encode, operandBits, BitVec.extractLsb'_or]
  | cfgwr idx data =>
    simp [Instr.opcode, operandsOf, idxField, dataField, encode, operandBits, BitVec.extractLsb'_or]
  | clrerr mask => simp [Instr.opcode, operandsOf, maskField, encode, operandBits, BitVec.extractLsb'_or]

/-- Settles O1: the word has its operation's row, passes that row's tests, and gives every operand back. -/
theorem decodeAfterEncode : Obligations.DecodeAfterEncode := fun i h =>
  decode_eq_ok_iff.mpr ⟨i.opcode, (Laws.EncodingKeepsReservedBitsZero.opcField_encode i).symm,
    encode_and_reservedMask i, indexAllowed_encode h, operandsOf_encode i⟩

/-! ## Encoding after decoding -/

/-- The operand bits of a format: those below OPC that are not reserved (R66). -/
def operandMask (f : Format) : Word := 0x0FFFFFFF#32 &&& ~~~reservedMask f

/-- A field put back at its place is the word with every other bit 0. -/
theorem placeField_extractLsb' (w : Word) (lo n : Nat) :
    placeField lo (w.extractLsb' lo n) = w &&& placeField lo (BitVec.allOnes n) := by
  ext j hj
  by_cases hlo : lo ≤ j
  · simp [hlo, hj, Bool.and_comm, ← BitVec.getLsbD_eq_getElem]
  · simp [hlo]

/-- One bit of a word, as a field of one bit. -/
theorem ofBool_getLsbD (w : Word) (j : Nat) : BitVec.ofBool (w.getLsbD j) = w.extractLsb' j 1 := by
  ext k hk
  simp [show k = 0 by omega]

/-- The code of the unit that a bit selects is that bit (R66). -/
theorem code_ofBit (b : Bool) : (DerivUnit.ofBit b).code = BitVec.ofBool b := by
  cases b <;> rfl

/-- The operation of a row is of that row. -/
@[simp] theorem opcode_operandsOf (op : Opcode) (w : Word) : (operandsOf op w).opcode = op := by
  cases op <;> rfl

/-- A row reads exactly the operand bits of its format (R66, R67): put back at their places, they are those bits of
the word. -/
theorem operandBits_operandsOf (op : Opcode) (w : Word) :
    operandBits (operandsOf op w) = w &&& operandMask op.format := by
  cases op with
  | nop | start | frame | endStream | stop => exact (BitVec.and_zero (x := w)).symm
  | inject =>
    simp only [operandsOf, operandBits, lowByteField, highByteField, placeField_extractLsb',
      ← BitVec.and_or_distrib_left]
    rfl
  | symbol =>
    simp only [operandsOf, operandBits, symField, symbol_code_ofCode, placeField_extractLsb']
    rfl
  | edge =>
    simp only [operandsOf, operandBits, bit0Field, bit1Field, ofBool_getLsbD, placeField_extractLsb',
      ← BitVec.and_or_distrib_left]
    rfl
  | bit =>
    simp only [operandsOf, operandBits, bit0Field, ofBool_getLsbD, placeField_extractLsb']
    rfl
  | deriv =>
    simp only [operandsOf, operandBits, unitField, lowByteField, code_ofBit, ofBool_getLsbD, placeField_extractLsb',
      ← BitVec.and_or_distrib_left]
    rfl
  | cfgwr =>
    simp only [operandsOf, operandBits, idxField, dataField, placeField_extractLsb', ← BitVec.and_or_distrib_left]
    rfl
  | clrerr =>
    simp only [operandsOf, operandBits, maskField, placeField_extractLsb']
    rfl

/-- With OPC's bits, the reserved and the operand bits of a format are all bits of a word. -/
theorem opcMask_or_masks (f : Format) :
    placeField 28 (BitVec.allOnes 4) ||| (reservedMask f ||| operandMask f) = BitVec.allOnes 32 := by
  cases f <;> rfl

/-- A word whose reserved bits are 0 is its OPC field and its operand bits (R65, R66). -/
theorem opcField_or_operandBits {w : Word} {f : Format} (hres : w &&& reservedMask f = 0#32) :
    placeField 28 (opcField w) ||| (w &&& operandMask f) = w := by
  calc placeField 28 (opcField w) ||| (w &&& operandMask f)
      = w &&& placeField 28 (BitVec.allOnes 4) ||| (w &&& reservedMask f ||| w &&& operandMask f) := by
        rw [opcField, placeField_extractLsb', hres, BitVec.zero_or]
    _ = w &&& (placeField 28 (BitVec.allOnes 4) ||| (reservedMask f ||| operandMask f)) := by
        rw [BitVec.and_or_distrib_left, BitVec.and_or_distrib_left]
    _ = w := by rw [opcMask_or_masks, BitVec.and_allOnes]

/-- What a row with an allowed index decodes to is legal. -/
theorem operandsOf_wellFormed {op : Opcode} {w : Word} (hidx : indexAllowed op w) :
    (operandsOf op w).wellFormed = true := by
  cases op with
  | cfgwr => exact hidx rfl
  | _ => rfl

/-- Settles O2: encoding puts OPC and the operand bits back, and the reserved bits were 0. -/
theorem encodeAfterDecode : Obligations.EncodeAfterDecode := by
  intro w i h
  obtain ⟨op, hcode, hres, hidx, rfl⟩ := decode_eq_ok_iff.mp h
  refine ⟨?_, operandsOf_wellFormed hidx⟩
  rw [encode, opcode_operandsOf, hcode, operandBits_operandsOf, opcField_or_operandBits hres]

end Sys2Proof
end

section
/-! Which words are legal: the opcode table (R69, R70) and the three illegal kinds (R71). -/

namespace Sys2Proof

/-! ## Fields as numbers -/

/-- OPC as a number (R65). -/
theorem opcField_toNat (w : Word) : (opcField w).toNat = w.toNat / 2 ^ 28 := by
  have hw := w.isLt
  simp only [opcField, BitVec.extractLsb'_toNat, Nat.shiftRight_eq_div_pow]
  omega

/-- CFGWR's index as a number (R67). -/
theorem idxField_toNat (w : Word) : (idxField w).toNat = w.toNat / 2 ^ 16 % 16 := by
  simp [idxField, BitVec.extractLsb'_toNat, Nat.shiftRight_eq_div_pow]

/-- The index bound of a row, by arithmetic on the word (R71 item 3). -/
theorem indexAllowed_iff {op : Opcode} {w : Word} :
    indexAllowed op w ↔ (op = .cfgwr → w.toNat / 2 ^ 16 % 16 < 12) := by
  simp [indexAllowed, legalIndex, idxField_toNat]

/-! ## The opcode table -/

/-- The rows in the order of the opcode map (R69). -/
def allOpcodes : List Opcode :=
  [.nop, .start, .frame, .endStream, .stop, .inject, .symbol, .edge, .bit, .deriv, .cfgwr, .clrerr]

/-- Every row is listed. -/
theorem mem_allOpcodes (op : Opcode) : op ∈ allOpcodes := by
  cases op <;> decide

/-- The match and the mask of a row: its OPC, and OPC's bits with the reserved bits of its format (R70). -/
def tableRow (op : Opcode) : Word × Word :=
  (placeField 28 op.code, placeField 28 (BitVec.allOnes 4) ||| reservedMask op.format)

/-- OPC of a masked word. -/
theorem opcField_and (v w : Word) : opcField (v &&& w) = opcField v &&& opcField w :=
  BitVec.extractLsb'_and

/-- A row's mask covers OPC. -/
theorem opcField_tableRow_mask (op : Opcode) : opcField (tableRow op).2 = BitVec.allOnes 4 := by
  cases op <;> rfl

/-- A row's match has the row's OPC. -/
theorem opcField_tableRow_match (op : Opcode) : opcField (tableRow op).1 = op.code :=
  extractLsb'_placeField_same 28 op.code (by decide)

/-- A row's mask covers the reserved bits of its format. -/
theorem tableRow_mask_and_reservedMask (op : Opcode) :
    (tableRow op).2 &&& reservedMask op.format = reservedMask op.format := by
  cases op <;> rfl

/-- A row's match has 0 in the reserved bits of its format. -/
theorem tableRow_match_and_reservedMask (op : Opcode) : (tableRow op).1 &&& reservedMask op.format = 0#32 := by
  cases op <;> rfl

/-- A word matches a row exactly when it has the row's OPC and 0 in the reserved bits of its format. -/
theorem and_tableRow_iff (op : Opcode) (w : Word) :
    w &&& (tableRow op).2 = (tableRow op).1 ↔ op.code = opcField w ∧ w &&& reservedMask op.format = 0#32 := by
  constructor
  · intro h
    have hopc : opcField w &&& BitVec.allOnes 4 = op.code := by
      rw [← opcField_tableRow_mask op, ← opcField_and, h, opcField_tableRow_match]
    refine ⟨by rw [← hopc, BitVec.and_allOnes], ?_⟩
    rw [← tableRow_mask_and_reservedMask, ← BitVec.and_assoc, h, tableRow_match_and_reservedMask]
  · rintro ⟨hcode, hres⟩
    rw [tableRow, BitVec.and_or_distrib_left, hres, BitVec.or_zero, hcode, opcField, placeField_extractLsb']

/-- The match of CFGWR's row is no other row's. -/
theorem tableRow_match_eq_cfgwr (op : Opcode) : (tableRow op).1 = 0xA0000000#32 ↔ op = .cfgwr := by
  cases op <;> decide

/-- Settles O3: the tabled masks and matches are those of the twelve rows, and a row decodes what matches it. -/
theorem legalWordsMatchTheOpcodeTable : Obligations.LegalWordsMatchTheOpcodeTable := by
  intro w
  change _ ↔ ∃ row ∈ allOpcodes.map tableRow,
    w &&& row.2 = row.1 ∧ (row.1 = 0xA0000000#32 → w.toNat / 2 ^ 16 % 16 < 12)
  simp only [exists_decode_iff, List.mem_map, mem_allOpcodes, true_and, exists_exists_eq_and, and_tableRow_iff,
    tableRow_match_eq_cfgwr, indexAllowed_iff, and_assoc]

end Sys2Proof

namespace Sys2Proof.Machine

/-! ## The illegal kinds -/

/-- OPC selects no row exactly from 0xC on (R69). -/
theorem opcodeOf_eq_none_iff (opc : BitVec 4) : opcodeOf opc = none ↔ 12 ≤ opc.toNat := by
  revert opc
  decide

/-- The reserved bits that R66 and R69 table for a row's OPC are those of the row's format (R70). -/
theorem reservedBitsOfOpc_code (op : Opcode) : reservedBitsOfOpc op.code.toNat = reservedMask op.format := by
  cases op <;> rfl

/-- CFGWR's OPC is 0xA (R69). -/
theorem code_toNat_eq_ten (op : Opcode) : op.code.toNat = 10 ↔ op = .cfgwr := by
  cases op <;> decide

/-- A word whose OPC selects no row is of the first illegal kind. -/
theorem illegalKind_of_no_row {w : Word} (h : opcodeOf (opcField w) = none) : illegalKind w :=
  .inl (opcField_toNat w ▸ (opcodeOf_eq_none_iff _).mp h)

/-- A word with a row's OPC is of an illegal kind exactly when it fails one of the row's two tests. -/
theorem illegalKind_of_row {w : Word} {op : Opcode} (h : op.code = opcField w) :
    illegalKind w ↔ ¬ (w &&& reservedMask op.format = 0#32 ∧ indexAllowed op w) := by
  have hlt : op.code.toNat < 12 := by cases op <;> decide
  rw [illegalKind, ← opcField_toNat, ← h, reservedBitsOfOpc_code, code_toNat_eq_ten, indexAllowed_iff]
  simp only [hlt, not_le.mpr hlt, false_or, true_and, not_and_or, Classical.not_imp, not_lt]

/-- The three kinds of illegal word are the words that do not decode (R70, R71). -/
theorem illegalKind_iff {w : Word} : illegalKind w ↔ ¬ ∃ i, decode w = .ok i := by
  rw [exists_decode_iff]
  cases hop : opcodeOf (opcField w) with
  | none =>
    refine iff_of_true (illegalKind_of_no_row hop) ?_
    rintro ⟨op, hcode, -⟩
    simp [← hcode] at hop
  | some op =>
    have hcode := opcodeOf_eq_some hop
    rw [illegalKind_of_row hcode]
    refine not_congr ⟨fun h => ⟨op, hcode, h⟩, ?_⟩
    rintro ⟨op', hcode', h⟩
    obtain rfl : op' = op := by simpa [← hcode'] using hop
    exact h

/-- An illegal word is rejected before any operation is run (R135). -/
theorem runWord_illegal {w : Word} (h : illegalKind w) (run : Instr → State → StepOutcome) (s : State) :
    runWord run w s = .next (raise .illegalOp s) := by
  unfold runWord
  cases hd : decode w with
  | error e => rfl
  | ok i => exact absurd ⟨i, hd⟩ (illegalKind_iff.mp h)

/-- What recording ILLEGAL_OP writes (R131, R132). -/
theorem raise_illegalOp (s : State) :
    raise .illegalOp s = { s with err := s.err ||| 0b000100#6, errInfo := 3#4, errWord := (presented s).word } :=
  rfl

/-- Settles O4: the illegal kinds are the words that do not decode, and such a word is only recorded. -/
theorem illegalWordOnlyRecordsIllegalOp : Obligations.IllegalWordOnlyRecordsIllegalOp := by
  refine ⟨fun w => ?_, fun s h => ?_⟩
  · rw [illegalKind_iff]
    exact (Classical.em _).symm
  · rw [runWord_illegal h, raise_illegalOp]

/-- The operation at the front of the port is the presented one (R14). -/
theorem presented_of_port {s : State} {o : Operation} {rest : List PortEvent} (hp : s.port = .op o :: rest) :
    presented s = o := by
  simp [presented, hp]

/-- Settles O56: the word is recorded as illegal, and then consumed as any operation is. -/
theorem stepConsumesAnIllegalWord : Obligations.StepConsumesAnIllegalWord := by
  intro s o rest hp hw
  have hstep : step s = .next (raise .illegalOp s).retire := by
    simp only [step, runPort, hp, runWord_illegal hw, retireOutcome_next]
  rw [hstep, raise_illegalOp, presented_of_port hp, State.retire]
  simp [hp]

end Sys2Proof.Machine
end

section
/-! Assembly lines (R73), the region writes of SETREGION (R74), and the tabled words and symbols. -/

namespace Sys2Proof.Machine

/-! ## Operands of lines -/

/-- A value of a field, as a number, is that field's operand (R73). -/
@[simp] theorem numberOperand_toNat {n : Nat} (v : BitVec n) : numberOperand n (.num v.toNat) = some v := by
  simp [numberOperand, v.isLt]

/-- A bit, as a number, is a one-bit operand. -/
@[simp] theorem bitOperand_toNat (b : Bool) : bitOperand (.num b.toNat) = some b := by
  cases b <;> rfl

/-- A symbol's code, as a number, is its operand (R68, R73). -/
@[simp] theorem symbolOperand_code (d : Symbol) : symbolOperand (.num d.code.toNat) = some d := by
  simp [symbolOperand]

/-- A unit's bit, as a number, is a one-bit operand. -/
@[simp] theorem bitOperand_unitCode (u : DerivUnit) :
    bitOperand (.num u.code.toNat) = some (u.code.getLsbD 0) := by
  cases u <;> rfl

/-- A legal index, as a number, is a register operand (R73). -/
theorem registerOperand_toNat {idx : BitVec 4} (h : legalIndex idx = true) :
    registerOperand (.num idx.toNat) = some idx := by
  have hlt : idx.toNat < 12 := of_decide_eq_true h
  simp [registerOperand, hlt]

/-! ## Lines -/

/-- The line of a legal operation is read as that operation (R73). -/
theorem operationOf_lineOf {i : Instr} (h : i.wellFormed = true) : operationOf (lineOf i) = some i := by
  cases i with
  | nop | start | frame | endStream | stop => rfl
  | inject | symbol | edge | bit | deriv | clrerr => simp [lineOf, operationOf]
  | cfgwr => simp [lineOf, operationOf, registerOperand_toNat h]

/-- Settles O7: a line that is read as an operation stands for that operation alone. -/
theorem assemblyLinesRoundTrip : Obligations.AssemblyLinesRoundTrip := by
  intro i h
  rw [assembleLine, operationOf_lineOf h]

/-! ## SETREGION -/

/-- CFGWR of a coordinate register writes that coordinate (R32, R129). -/
theorem exec_cfgwr_coordinate {idx : BitVec 4} (h : idx.toNat < 8) (data : Half) (s : State) :
    exec (.cfgwr idx data) s = .next (s.setCfg (writeCoordinate s.cfg idx.toNat data)) := by
  have hw : configWrite s.active s.cfg idx data = .ok (writeCoordinate s.cfg idx.toNat data) := by
    unfold configWrite
    split
    case h_5 => exact if_pos h
    all_goals omega
  simp only [exec, execCfgwr, hw]

/-- A list of operations goes on from what its first one answers. -/
theorem execAll_cons_next {i : Instr} {s t : State} (h : exec i s = .next t) (is : List Instr) :
    execAll (i :: is) s = execAll is t := by
  rw [execAll, h]

/-- Writes of coordinate registers, run in order, write each its coordinate (R74, R129). -/
theorem execAll_cfgwr_coordinates (writes : List (BitVec 4 × Half)) (h : ∀ p ∈ writes, p.1.toNat < 8) (s : State) :
    execAll (writes.map fun p => .cfgwr p.1 p.2) s =
      .next (s.setCfg (writes.foldl (fun c p => writeCoordinate c p.1.toNat p.2) s.cfg)) := by
  induction writes generalizing s with
  | nil => rfl
  | cons p rest ih =>
    obtain ⟨hp, hrest⟩ := List.forall_mem_cons.mp h
    rw [List.map_cons, execAll_cons_next (exec_cfgwr_coordinate hp p.2 s), ih hrest]
    rfl

/-- Settles O8: the four coordinate writes of each expansion replace that region. -/
theorem setRegionWritesTheRegion : Obligations.SetRegionWritesTheRegion := by
  intro s x0 x1 y0 y1
  exact ⟨execAll_cfgwr_coordinates [(0, x0), (1, x1), (2, y0), (3, y1)] (by simp) s,
    execAll_cfgwr_coordinates [(4, x0), (5, x1), (6, y0), (7, y1)] (by simp) s⟩

/-! ## Tabled words and symbols -/

/-- Settles O5: every legal word of the table is its operation's, and each illegal one fails a test of R70. -/
theorem tabledWordsDecode : Obligations.TabledWordsDecode :=
  ⟨rfl, rfl, rfl, rfl, rfl, rfl, rfl, rfl, rfl, rfl, rfl, rfl, rfl, rfl, rfl, rfl⟩

/-- The signal half of a symbol is bit 0 of its code (R103). -/
theorem signalHalf_eq_getLsbD (d : Symbol) : signalHalf d = d.code.getLsbD 0 := by
  cases d <;> rfl

/-- The clock half of a symbol is bit 1 of its code (R103). -/
theorem clockHalf_eq_getLsbD (d : Symbol) : clockHalf d = d.code.getLsbD 1 := by
  cases d <;> rfl

/-- Settles O6: the codes are the table's, every code is its symbol's, and the halves are the code's bits. -/
theorem symbolCodesSplitIntoHalves : Obligations.SymbolCodesSplitIntoHalves :=
  ⟨⟨rfl, rfl, rfl, rfl⟩, symbol_code_ofCode, fun d => ⟨signalHalf_eq_getLsbD d, clockHalf_eq_getLsbD d⟩⟩

end Sys2Proof.Machine
end

section
/-! The sampler (R75 to R81): the oracle's answers, and sampling where a region has one pixel value. -/

namespace Sys2Proof.Machine

/-! ## The answers of the oracle -/

/-- Reducing an offset by the extent of its interval leaves a point of the interval where it is. -/
theorem add_sub_mod_extent {lo hi n : Nat} (hlo : lo ≤ n) (hhi : n < hi) : lo + (n - lo) % (hi - lo) = n := by
  rw [Nat.mod_eq_of_lt (Nat.sub_lt_sub_right hlo hhi), Nat.add_sub_cancel' hlo]

/-- A coordinate of a region is the fold of its own offset in the region (R77, log 4). -/
theorem foldIntoRegion_offset {r : Region} {c : Coord} (hc : regionContains r c = true) :
    foldIntoRegion r ⟨c.x - r.x0.toNat, c.y - r.y0.toNat⟩ = c := by
  obtain ⟨hx0, hx1, hy0, hy1⟩ := (regionContains_iff r c).mp hc
  simp only [foldIntoRegion, add_sub_mod_extent hx0 hx1, add_sub_mod_extent hy0 hy1]

/-- Settles O44: a coordinate of the region is the fold of its offset, and every fold lies in the region. -/
theorem oracleAdmitsExactlyTheRegion : Obligations.OracleAdmitsExactlyTheRegion := by
  intro r hx hy c
  constructor
  · exact fun hc => ⟨_, foldIntoRegion_offset hc⟩
  · rintro ⟨raw, rfl⟩
    exact foldIntoRegion_inside hx hy raw

/-! ## Sampling a region of one pixel value -/

/-- Every pixel of the region reads as `p` (R53, R81 item 1). -/
def UniformOn (f : Frame) (r : Region) (p : Pixel) : Prop :=
  ∀ x y, regionContains r ⟨x, y⟩ = true → pixRead f x y = some p

/-- A draw inside a uniform region reads the region's value, wherever it lies (R78). -/
theorem drawnPixel_uniform {f : Frame} {r : Region} {p : Pixel} {c : Coord} (hu : UniformOn f r p)
    (hc : regionContains r c = true) : drawnPixel f r c = .ok p := by
  simp only [drawnPixel, if_pos hc, hu c.x c.y hc]

/-- Over a uniform region the accumulators hold the value once for each draw (R78, R79). -/
theorem sampleSums_uniform {f : Frame} {r : Region} {p : Pixel} {draw : Nat → Coord} (hu : UniformOn f r p)
    (n : Nat) (hd : ∀ k, k < n → regionContains r (draw k) = true) :
    sampleSums f r draw n = .ok ⟨n * p.ch0.toNat, n * p.ch1.toNat, n * p.ch2.toNat⟩ := by
  induction n with
  | zero => simp [sampleSums]
  | succ n ih =>
    have hsums := ih fun k hk => hd k (Nat.lt_succ_of_lt hk)
    have hpixel := drawnPixel_uniform hu (hd n n.lt_succ_self)
    simp only [sampleSums, hsums, hpixel, ChannelSums.add, Nat.succ_mul]

/-- The mean of equal draws is their value: the truncation of R78 loses nothing. -/
theorem mean_of_equal_draws {n : Nat} (hn : 0 < n) (p : Pixel) :
    ChannelSums.mean ⟨n * p.ch0.toNat, n * p.ch1.toNat, n * p.ch2.toNat⟩ n = p := by
  simp only [ChannelSums.mean, Nat.mul_div_cancel_left _ hn, BitVec.ofNat_toNat, BitVec.setWidth_eq]

/-- A valid uniform region is sampled as its value, whatever admissible answers the oracle gives (R81 item 1). -/
theorem sampleRegion_uniform {s : State} {id : RegionId} {p : Pixel} (hn : s.cfg.nsamples ≠ 0)
    (hv : regionValid (regionOf s.cfg id) (currentFrame s) = true) (ha : answersInside s)
    (hu : UniformOn (currentFrame s) (regionOf s.cfg id) p) : sampleRegion s id = .ok p := by
  have hpos : 0 < s.cfg.nsamples.toNat := Nat.pos_of_ne_zero fun h => hn (BitVec.eq_of_toNat_eq h)
  rw [sampleRegion, sample, sampleSums_uniform hu _ fun k hk => drawAnswer_inside hv ha hk]
  simp only [mean_of_equal_draws hpos]

/-! ## FRAME -/

/-- In a session with both regions valid FRAME goes on to sample (R121). -/
theorem execFrame_of_valid {s : State} (ha : s.active = true)
    (hsig : outsideFrame s.cfg.sigRegion (currentFrame s) = false)
    (hclk : outsideFrame s.cfg.clkRegion (currentFrame s) = false) : execFrame s = frameSampled s := by
  obtain ⟨hout, -⟩ | ⟨-, -, hgo⟩ := execFrame_cases s ha
  · simp [hsig, hclk] at hout
  · exact hgo

/-- FRAME keeps both samples and goes on as INJECT with their selected channels (R121, R122). -/
theorem frameSampled_of_samples {s : State} {cs cc : Pixel} (hs : sampleRegion s .sig = .ok cs)
    (hc : sampleRegion s .clk = .ok cc) :
    frameSampled s =
      .next (pipeFromSmoother (cs.lane s.cfg.sigCh) (cc.lane s.cfg.clkCh) (storeSamples cs cc s)) := by
  simp only [frameSampled, hs, hc]

/-- Settles O43: each region is sampled as its one value, and INJECT's stages leave the stored samples. -/
theorem uniformRegionsDoNotDependOnTheOracle : Obligations.UniformRegionsDoNotDependOnTheOracle := by
  intro s p q ha hn hsig hclk hin hp hq
  have hs : sampleRegion s .sig = .ok p :=
    sampleRegion_uniform hn (by simp [regionOf, regionValid_eq, hsig]) hin hp
  have hc : sampleRegion s .clk = .ok q :=
    sampleRegion_uniform hn (by simp [regionOf, regionValid_eq, hclk]) hin hq
  obtain ⟨x, hx⟩ := pipeFromSmoother_ses_frame (p.lane s.cfg.sigCh) (q.lane s.cfg.clkCh) (storeSamples p q s)
  refine ⟨_, (execFrame_of_valid ha hsig hclk).trans (frameSampled_of_samples hs hc), ?_, ?_, ?_⟩
  · rw [hx, storeSamples_ses]
  · rw [hx, storeSamples_ses]
  · exact inSession_active (storeSamples p q s) ha _

/-! ## A state that meets every hypothesis of O43 -/

/-- A row of two green pixels and then two red ones. -/
def twoToneFrame : Frame :=
  setPixel (setPixel (setPixel (setPixel ⟨4, 1, []⟩ 0 0 ⟨0, 200, 0⟩) 1 0 ⟨0, 200, 0⟩) 2 0 ⟨200, 0, 0⟩)
    3 0 ⟨200, 0, 0⟩

/-- FRAME presented in a session: a region over each tone and three draws a region, of which only the first draw of
the signal region is pinned. -/
def twoToneState : State :=
  ((State.reset.setActive true).setCfg
      { State.reset.cfg with sigRegion := ⟨0, 2, 0, 1⟩, clkRegion := ⟨2, 4, 0, 1⟩, nsamples := 3 }).setPort
    [.op ⟨0x20000000, twoToneFrame, [⟨1, 0⟩], []⟩]

/-- The one pinned answer lies in the signal region. -/
theorem twoToneState_answersInside : answersInside twoToneState := by
  intro id k _ c hc
  cases id with
  | sig =>
    obtain rfl : c = ⟨1, 0⟩ := List.mem_singleton.mp (List.mem_of_getElem? hc)
    decide
  | clk => exact absurd (List.mem_of_getElem? hc) List.not_mem_nil

/-- The signal region covers the green pixels. -/
theorem twoToneState_sig_uniform :
    UniformOn (currentFrame twoToneState) twoToneState.cfg.sigRegion ⟨0, 200, 0⟩ := by
  intro x y h
  obtain ⟨hx0, hx1, hy0, hy1⟩ : 0 ≤ x ∧ x < 2 ∧ 0 ≤ y ∧ y < 1 := (regionContains_iff _ _).mp h
  interval_cases y
  interval_cases x <;> decide

/-- The clock region covers the red pixels. -/
theorem twoToneState_clk_uniform :
    UniformOn (currentFrame twoToneState) twoToneState.cfg.clkRegion ⟨200, 0, 0⟩ := by
  intro x y h
  obtain ⟨hx0, hx1, hy0, hy1⟩ : 2 ≤ x ∧ x < 4 ∧ 0 ≤ y ∧ y < 1 := (regionContains_iff _ _).mp h
  interval_cases y
  interval_cases x <;> decide

/-- FRAME stores the two tones, though five of its six draws are left to the oracle. -/
theorem frame_twoToneState : ∃ t, exec .frame twoToneState = .next t ∧
    t.ses.sampleSig = ⟨⟨0, 200, 0⟩, true⟩ ∧ t.ses.sampleClk = ⟨⟨200, 0, 0⟩, true⟩ := by
  obtain ⟨t, hnext, hsig, hclk, -⟩ := uniformRegionsDoNotDependOnTheOracle twoToneState _ _ rfl (by decide)
    (by decide) (by decide) twoToneState_answersInside twoToneState_sig_uniform twoToneState_clk_uniform
  exact ⟨t, hnext, hsig, hclk⟩

end Sys2Proof.Machine
end

section
/-! The smoothers (R82 to R87): a run of pushes into a window, and a run of INJECT (R122). -/

namespace Sys2Proof.Machine

/-! ## Windows -/

/-- After a run of pushes a window is the last `len` of what it held and what was pushed (R82, R86). -/
theorem foldl_windowPush_eq_drop {α : Type} (len : Nat) (vs q : List α) (h : q.length ≤ len) :
    vs.foldl (windowPush len) q = (q ++ vs).drop (q.length + vs.length - len) := by
  induction vs generalizing q with
  | nil => simp [Nat.sub_eq_zero_of_le h]
  | cons v vs ih =>
    have hfirst : q.length + 1 - len ≤ (q ++ [v]).length := by simp
    have hcount : q.length + 1 - len + (q.length + 1 - (q.length + 1 - len) + vs.length - len) =
        q.length + (vs.length + 1) - len := by omega
    rw [List.foldl_cons, ih _ (windowPush_length_le len q v h), windowPush_eq_drop len q v h,
      ← List.drop_append_of_le_length hfirst, List.drop_drop]
    simp [hcount]

/-- The smoothed value of a window's later part is the sum over that part, with its count (R18, R83). -/
theorem smoothed_drop (q : List Byte) (m : Nat) :
    smoothed (q.drop m) = ⟨((q.map BitVec.toNat).drop m).sum, q.length - m⟩ := by
  rw [smoothed, windowSum, List.map_drop, List.length_drop]

/-- After a run of pushes into an empty window the smoothed value is that of the last `len` pushes (R86). -/
theorem smoothed_foldl_windowPush_nil (len : Nat) (vs : List Byte) :
    smoothed (vs.foldl (windowPush len) []) =
      ⟨((vs.map BitVec.toNat).drop (vs.length - len)).sum, min vs.length len⟩ := by
  rw [foldl_windowPush_eq_drop len vs [] (Nat.zero_le len), List.nil_append, List.length_nil, Nat.zero_add,
    smoothed_drop, Nat.sub_sub_eq_min]

/-- A window of length 1 holds just the value pushed last (R85). -/
theorem windowPush_one {α : Type} (q : List α) (v : α) (h : q.length ≤ 1) : windowPush 1 q v = [v] := by
  rw [windowPush_eq_drop 1 q v h, Nat.add_sub_cancel, List.drop_left]

/-- The smoothed value of a window of one value is that value, with count 1 (R83). -/
theorem smoothed_singleton (v : Byte) : smoothed [v] = ⟨v.toNat, 1⟩ := rfl

/-! ## INJECT -/

/-- In a session INJECT runs the pipeline from the smoothers on (R122). -/
theorem exec_inject_live {s : State} (ha : s.active = true) (sv cv : Byte) :
    exec (.inject sv cv) s = .next (pipeFromSmoother sv cv s) := inSession_active s ha _

/-- INJECT's stages push each value into its own window and write no window after that (R87, R120). -/
theorem pipeFromSmoother_windows (sv cv : Byte) (s : State) :
    (pipeFromSmoother sv cv s).ses.qs = windowPush s.cfg.smoothLen.toNat s.ses.qs sv ∧
      (pipeFromSmoother sv cv s).ses.qc = windowPush s.cfg.smoothLen.toNat s.ses.qc cv := by
  obtain ⟨x, hx⟩ := symbolStage_ses_frame (classified (smoothPush sv cv s)) (smoothPush sv cv s)
  rw [pipeFromSmoother, hx]
  exact ⟨rfl, rfl⟩

/-- In a session a run of INJECT pushes its signal values into one window and its clock values into the other, at
the length the session began with (R87, R122). -/
theorem execAll_inject_windows (vs : List (Byte × Byte)) {s : State} (ha : s.active = true) :
    ∃ t, execAll (vs.map fun v => .inject v.1 v.2) s = .next t ∧
      t.ses.qs = (vs.map Prod.fst).foldl (windowPush s.cfg.smoothLen.toNat) s.ses.qs ∧
      t.ses.qc = (vs.map Prod.snd).foldl (windowPush s.cfg.smoothLen.toNat) s.ses.qc := by
  induction vs generalizing s with
  | nil => exact ⟨s, rfl, rfl, rfl⟩
  | cons v vs ih =>
    obtain ⟨hqs, hqc⟩ := pipeFromSmoother_windows v.1 v.2 s
    obtain ⟨t, hrun, htqs, htqc⟩ :=
      ih (s := pipeFromSmoother v.1 v.2 s) ((pipeFromSmoother_active s v.1 v.2).trans ha)
    rw [hqs, pipeFromSmoother_cfg] at htqs
    rw [hqc, pipeFromSmoother_cfg] at htqc
    exact ⟨t, (execAll_cons_next (exec_inject_live ha v.1 v.2) _).trans hrun, htqs, htqc⟩

/-- Settles O39: the run of INJECT is a run of pushes into each empty window. -/
theorem smootherHoldsTheLastPushes : Obligations.SmootherHoldsTheLastPushes := by
  intro s vs ha hqs hqc
  obtain ⟨t, hrun, htqs, htqc⟩ := execAll_inject_windows vs ha
  refine ⟨t, hrun, ?_, ?_⟩
  · rw [htqs, hqs, smoothed_foldl_windowPush_nil, List.map_map, List.length_map]
    rfl
  · rw [htqc, hqc, smoothed_foldl_windowPush_nil, List.map_map, List.length_map]
    rfl

/-- Settles O41: each push into a window of length 1 leaves only the value pushed. -/
theorem smootherOfLengthOnePassesThrough : Obligations.SmootherOfLengthOnePassesThrough := by
  intro s sv cv ha hlen hqs hqc
  have hone : s.cfg.smoothLen.toNat = 1 := by rw [hlen]; rfl
  obtain ⟨hpqs, hpqc⟩ := pipeFromSmoother_windows sv cv s
  refine ⟨_, exec_inject_live ha sv cv, ?_, ?_⟩
  · rw [hpqs, hone, windowPush_one _ _ hqs, smoothed_singleton]
  · rw [hpqc, hone, windowPush_one _ _ hqc, smoothed_singleton]

end Sys2Proof.Machine
end

section
/-! The derivative units (R96) and the classifier's tests as comparisons of means (R90). -/

namespace Sys2Proof.Machine

/-! ## Derivative units -/

/-- A push keeps the value pushed and, after an earlier push only, the exact difference from the one before (R96). -/
theorem derivPush_difference (u : DerivState) (v : Byte) :
    (derivPush u v).prev = v ∧ (derivPush u v).hasPrev = true ∧
      (u.hasPrev = true → (derivPush u v).valid = true ∧
        (derivPush u v).diff.toInt = (v.toNat : Int) - u.prev.toNat) ∧
      (u.hasPrev = false → (derivPush u v).valid = false ∧ (derivPush u v).diff = 0) := by
  obtain ⟨hprev, hpush⟩ | ⟨hprev, hpush⟩ := derivPush_cases u v <;> rw [hpush]
  · exact ⟨rfl, rfl, fun _ => ⟨rfl, toInt_byteDifference v u.prev⟩, fun hfirst => by simp [hprev] at hfirst⟩
  · exact ⟨rfl, rfl, fun hlater => by simp [hprev] at hlater, fun _ => ⟨rfl, rfl⟩⟩

/-- In a session DERIV pushes its value into the unit it names (R96). -/
theorem exec_deriv_live {s : State} (ha : s.active = true) (u : DerivUnit) (v : Byte) :
    exec (.deriv u v) s = .next (derivStage u v s) := inSession_active s ha _

/-- Settles O26: either unit is replaced by its push. -/
theorem derivKeepsTheExactDifference : Obligations.DerivKeepsTheExactDifference := fun s v ha =>
  ⟨⟨_, exec_deriv_live ha .d0 v, derivPush_difference s.ses.d0 v⟩,
    ⟨_, exec_deriv_live ha .d1 v, derivPush_difference s.ses.d1 v⟩⟩

/-! ## Classifier -/

/-- The rational mean of a smoothed value: its sum over its count (R83, R90). -/
def Smoothed.mean (v : Smoothed) : ℚ := v.sum / v.cnt

/-- A mean is below a threshold just when the sum is below the threshold times the count (R90). -/
theorem Smoothed.mean_lt_iff {v : Smoothed} (h : 0 < v.cnt) (b : ℕ) : v.mean < b ↔ v.sum < b * v.cnt := by
  rw [mean, div_lt_iff₀ (Nat.cast_pos.mpr h)]
  exact_mod_cast Iff.rfl

/-- A mean is above a threshold just when the sum is above the threshold times the count (R90). -/
theorem Smoothed.lt_mean_iff {v : Smoothed} (h : 0 < v.cnt) (b : ℕ) : b < v.mean ↔ b * v.cnt < v.sum := by
  rw [mean, lt_div_iff₀ (Nat.cast_pos.mpr h)]
  exact_mod_cast Iff.rfl

/-- Two means compare as the sums do, each times the other's count (R90). -/
theorem Smoothed.mean_lt_mean_iff {v w : Smoothed} (hv : 0 < v.cnt) (hw : 0 < w.cnt) :
    v.mean < w.mean ↔ v.sum * w.cnt < w.sum * v.cnt := by
  rw [mean, mean, div_lt_div_iff₀ (Nat.cast_pos.mpr hv) (Nat.cast_pos.mpr hw)]
  exact_mod_cast Iff.rfl

/-- The classifier's tests, written with the means (R90). -/
theorem classify_eq_of_means (low high : Byte) {vS vC : Smoothed} (hS : 0 < vS.cnt) (hC : 0 < vC.cnt) :
    classify low high vS vC =
      if vS.mean < low.toNat ∧ vC.mean < low.toNat then .neither
      else if high.toNat < vS.mean ∧ high.toNat < vC.mean then .both
      else if vS.mean < vC.mean then .clock
      else .signal := by
  simp only [classify, gt_iff_lt, Smoothed.mean_lt_iff hS, Smoothed.mean_lt_iff hC, Smoothed.lt_mean_iff hS,
    Smoothed.lt_mean_iff hC, Smoothed.mean_lt_mean_iff hS hC]

/-- Settles O27: each case is one branch of the tests on the means. -/
theorem classifierComparesTheMeans : Obligations.ClassifierComparesTheMeans := by
  intro low high sS nS sC nC hS hC mS mC hmS hmC
  obtain rfl : mS = Smoothed.mean ⟨sS, nS⟩ := hmS
  obtain rfl : mC = Smoothed.mean ⟨sC, nC⟩ := hmC
  rw [classify_eq_of_means low high hS hC]
  refine ⟨fun hlow => if_pos hlow, fun hlow hhigh => ?_, fun hlow hhigh hlt => ?_, fun hlow hhigh hle => ?_⟩
  · rw [if_neg hlow, if_pos hhigh]
  · rw [if_neg hlow, if_neg hhigh, if_pos hlt]
  · rw [if_neg hlow, if_neg hhigh, if_neg hle.not_gt]

end Sys2Proof.Machine
end

section
/-! The debouncer's vote (R97, R98): what the plurality symbol of a window is, and when the symbol just pushed wins. -/

namespace Sys2Proof.Machine

/-! ## The latest occurrence -/

/-- The latest position of a symbol, counted from the newest end of the window, is its first position in the reversed
window; both say "absent" for a symbol that does not stand in it (R97). -/
theorem symbolLast_eq (w : List Symbol) (k : Symbol) :
    symbolLast w k = (w.length : Int) - 1 - w.reverse.idxOf k := by
  induction w with
  | nil => rfl
  | cons x rest ih =>
    rw [symbolLast, ih, List.reverse_cons, List.idxOf_append, List.length_cons]
    by_cases hk : k ∈ rest
    · have hlt : rest.reverse.idxOf k < rest.length := by
        simpa using List.idxOf_lt_length_of_mem (List.mem_reverse.mpr hk)
      rw [if_pos (by omega), if_pos (List.mem_reverse.mpr hk)]
      omega
    · have hlen : rest.reverse.idxOf k = rest.length := by
        rw [List.idxOf_eq_length (by simpa using hk), List.length_reverse]
      rw [if_neg (by omega), if_neg (mt List.mem_reverse.mp hk), List.length_reverse]
      by_cases hx : x = k
      · simp [hx]
      · simp [hx, List.idxOf_cons_ne]

/-! ## The order of the vote -/

/-- `(count[k], last[k])` in lexicographic order, what the vote maximises (R97). -/
def symbolRank (w : List Symbol) (k : Symbol) : ℕ ×ₗ ℤ := toLex (w.count k, symbolLast w k)

/-- One symbol beats another when its rank is greater (R97). -/
theorem symbolBeats_iff (w : List Symbol) (k j : Symbol) :
    symbolBeats w k j = true ↔ symbolRank w j < symbolRank w k := by
  simp only [symbolBeats, symbolRank, Bool.or_eq_true, Bool.and_eq_true, decide_eq_true_eq,
    Prod.Lex.toLex_lt_toLex, eq_comm (a := symbolCount w k)]
  rfl

/-- Neither of two symbols outranks the better of them. -/
theorem symbolRank_le_betterSymbol (w : List Symbol) (best k : Symbol) :
    symbolRank w best ≤ symbolRank w (betterSymbol w best k) ∧
      symbolRank w k ≤ symbolRank w (betterSymbol w best k) := by
  unfold betterSymbol
  split
  next hbeats => exact ⟨((symbolBeats_iff w k best).mp hbeats).le, le_rfl⟩
  next hnot => exact ⟨le_rfl, not_lt.mp (mt (symbolBeats_iff w k best).mpr hnot)⟩

/-- No candidate outranks the winner of a run of comparisons. -/
theorem symbolRank_le_foldl (w : List Symbol) (cands : List Symbol) {best j : Symbol} (hj : j ∈ best :: cands) :
    symbolRank w j ≤ symbolRank w (cands.foldl (betterSymbol w) best) := by
  induction cands generalizing best j with
  | nil => rw [List.mem_singleton.mp hj, List.foldl_nil]
  | cons k cands ih =>
    obtain ⟨hbest, hk⟩ := symbolRank_le_betterSymbol w best k
    have hwinner := ih (best := betterSymbol w best k) List.mem_cons_self
    rw [List.mem_cons, List.mem_cons] at hj
    obtain rfl | rfl | hj := hj
    · exact hbest.trans hwinner
    · exact hk.trans hwinner
    · exact ih (List.mem_cons_of_mem _ hj)

/-- No symbol outranks the plurality symbol (R97). -/
theorem symbolRank_le_plurality (w : List Symbol) (j : Symbol) :
    symbolRank w j ≤ symbolRank w (plurality w) :=
  symbolRank_le_foldl w _ (by cases j <;> simp)

/-! ## The plurality symbol -/

/-- No symbol has a higher count than the plurality symbol, and none with its count stands nearer the newest end
(R98). -/
theorem plurality_max (w : List Symbol) (j : Symbol) :
    w.count j ≤ w.count (plurality w) ∧
      (w.count j = w.count (plurality w) → w.reverse.idxOf (plurality w) ≤ w.reverse.idxOf j) := by
  have hrank := Prod.Lex.toLex_le_toLex.mp (symbolRank_le_plurality w j)
  simp only [symbolLast_eq] at hrank
  omega

/-- The plurality symbol stands in the window: a symbol that does has a higher count than one that does not (R97). -/
theorem plurality_mem {w : List Symbol} (hw : w ≠ []) : plurality w ∈ w := by
  obtain ⟨x, hx⟩ := List.exists_mem_of_ne_nil w hw
  exact List.count_pos_iff.mp ((List.count_pos_iff.mpr hx).trans_le (plurality_max w x).1)

/-- Settles O33: of two symbols with the highest count only one can occur last, since positions differ. -/
theorem debouncerPicksThePluralityLatestOnTies : Obligations.DebouncerPicksThePluralityLatestOnTies := by
  intro w hw
  refine ⟨plurality_mem hw, fun j => ?_⟩
  obtain ⟨hcount, hlast⟩ := plurality_max w j
  refine ⟨hcount, fun htie hne => (hlast htie).lt_of_ne fun heq => hne ?_⟩
  exact ((List.idxOf_inj (List.mem_reverse.mpr (plurality_mem hw))).mp heq).symm

/-- In a window of one symbol only, that symbol is the plurality (R100). -/
theorem plurality_replicate {n : Nat} (hn : n ≠ 0) (r : Symbol) : plurality (List.replicate n r) = r :=
  List.eq_of_mem_replicate (plurality_mem (mt (List.replicate_eq_nil_iff r).mp hn))

/-- The symbol just pushed wins if it has the highest count: nothing occurs later (R98). -/
theorem plurality_concat {q : List Symbol} {r : Symbol}
    (hmax : ∀ j, (q ++ [r]).count j ≤ (q ++ [r]).count r) : plurality (q ++ [r]) = r := by
  obtain ⟨hcount, hlast⟩ := plurality_max (q ++ [r]) r
  have hfirst := hlast (hcount.antisymm (hmax _))
  rw [List.reverse_concat, List.idxOf_cons_self, Nat.le_zero] at hfirst
  by_contra hne
  rw [List.idxOf_cons_ne _ (Ne.symm hne)] at hfirst
  exact absurd hfirst (Nat.succ_ne_zero _)

/-- A symbol pushed behind at most one other wins, if need be on the tie (R101 items 1 and 6). -/
theorem plurality_concat_of_length_le_one {q : List Symbol} (hq : q.length ≤ 1) (r : Symbol) :
    plurality (q ++ [r]) = r := by
  refine plurality_concat fun j => ?_
  by_cases hj : j = r
  · rw [hj]
  · calc (q ++ [r]).count j = q.count j := by simp [Ne.symm hj]
      _ ≤ 1 := List.count_le_length.trans hq
      _ ≤ (q ++ [r]).count r := by simp

end Sys2Proof.Machine
end

section
/-! SYMBOL (R102): the window it leaves, after one push and after a run of them. -/

namespace Sys2Proof.Machine

/-! ## One push -/

/-- A pushed window, with the test turned to "it still fits" (R97). -/
theorem windowPush_eq_ite {α : Type} (len : Nat) (q : List α) (v : α) :
    windowPush len q v = if q.length + 1 ≤ len then q ++ [v] else (q ++ [v]).tail := by
  simp only [windowPush, List.length_append, List.length_singleton, gt_iff_lt, ← not_le, ite_not]

/-- The value pushed is the newest of its window, behind what is kept of the window before (R97). -/
theorem windowPush_eq_concat {α : Type} {len : Nat} (hlen : len ≠ 0) {q : List α} (h : q.length ≤ len) (v : α) :
    windowPush len q v = q.drop (q.length + 1 - len) ++ [v] := by
  rw [windowPush_eq_drop len q v h, List.drop_append_of_le_length (by omega)]

/-- In a session SYMBOL runs the pipeline from the debouncer on (R102). -/
theorem exec_symbol_live {s : State} (ha : s.active = true) (r : Symbol) :
    exec (.symbol r) s = .next (symbolStage r s) := inSession_active s ha _

/-- In a session EDGE runs the extractor (R109). -/
theorem exec_edge_live {s : State} (ha : s.active = true) (sig clk : Bool) :
    exec (.edge sig clk) s = .next (edgeStage sig clk s) := inSession_active s ha _

/-- Settles O34: SYMBOL's state between its two stages is the debouncer's, from which EDGE runs the other stage. -/
theorem symbolDebouncesThenRunsTheEdgeStage : Obligations.SymbolDebouncesThenRunsTheEdgeStage := by
  intro s r w ha hw
  rw [← windowPush_eq_ite] at hw
  subst hw
  refine ⟨_, exec_symbol_live ha r, ?_⟩
  rw [← signalHalf_eq_getLsbD, ← clockHalf_eq_getLsbD]
  exact exec_edge_live (s := debouncePush r s) ha _ _

/-- SYMBOL's stages leave the pushed window and its plurality symbol (R102). -/
theorem symbolStage_window (r : Symbol) (s : State) :
    (symbolStage r s).ses.win = windowPush s.cfg.debLen.toNat s.ses.win r ∧
      (symbolStage r s).ses.debSym = plurality (symbolStage r s).ses.win := by
  obtain ⟨x, hx⟩ := edgeStage_ses_frame (signalHalf (debouncePush r s).ses.debSym)
    (clockHalf (debouncePush r s).ses.debSym) (debouncePush r s)
  rw [symbolStage, hx]
  exact ⟨rfl, rfl⟩

/-- Settles O37: at these lengths the push leaves at most one symbol before the one pushed. -/
theorem shortDebouncersAreTransparent : Obligations.ShortDebouncersAreTransparent := by
  intro s r ha hlen hwin
  have hshort : s.cfg.debLen.toNat = 1 ∨ s.cfg.debLen.toNat = 2 := by
    obtain h | h := hlen <;> simp [h]
  obtain ⟨hpush, hdeb⟩ := symbolStage_window r s
  refine ⟨_, exec_symbol_live ha r, ?_⟩
  rw [hdeb, hpush, windowPush_eq_concat (by omega) hwin]
  exact plurality_concat_of_length_le_one (by rw [List.length_drop]; omega) r

/-! ## A run of pushes -/

/-- In a session a run of SYMBOL pushes its symbols into the window, at the length the session began with, and the
debounced symbol is the plurality of the window it ends with (R97, R102). -/
theorem execAll_symbol_window (r : Symbol) (rs : List Symbol) {s : State} (ha : s.active = true) :
    ∃ t, execAll ((r :: rs).map .symbol) s = .next t ∧
      t.ses.win = (r :: rs).foldl (windowPush s.cfg.debLen.toNat) s.ses.win ∧
      t.ses.debSym = plurality t.ses.win := by
  induction rs generalizing r s with
  | nil => exact ⟨_, execAll_cons_next (exec_symbol_live ha r) [], symbolStage_window r s⟩
  | cons r' rs ih =>
    obtain ⟨hpush, -⟩ := symbolStage_window r s
    obtain ⟨t, hrun, hwin, hdeb⟩ := ih r' ((symbolStage_active s r).trans ha)
    rw [hpush, symbolStage_cfg] at hwin
    exact ⟨t, (execAll_cons_next (exec_symbol_live ha r) _).trans hrun, hwin, hdeb⟩

/-- A run of equal pushes as long as the window leaves nothing else in it (R100). -/
theorem foldl_windowPush_replicate {α : Type} {len n : Nat} (hn : len ≤ n) {q : List α} (h : q.length ≤ len)
    (v : α) : (List.replicate n v).foldl (windowPush len) q = List.replicate len v := by
  have hdrop : q.length + n - len = q.length + (n - len) := by omega
  have hkeep : n - (n - len) = len := by omega
  rw [foldl_windowPush_eq_drop len _ q h, List.length_replicate, hdrop, List.drop_length_add_append,
    List.drop_replicate, hkeep]

/-- Settles O35: the run fills the window with its symbol. -/
theorem debouncerSettlesOnARun : Obligations.DebouncerSettlesOnARun := by
  intro s r n ha hlen hwin hn
  have hne : s.cfg.debLen.toNat ≠ 0 := fun h => hlen (BitVec.eq_of_toNat_eq h)
  obtain ⟨m, rfl⟩ : ∃ m, n = m + 1 := Nat.exists_eq_succ_of_ne_zero (by omega)
  obtain ⟨t, hrun, htwin, hdeb⟩ := execAll_symbol_window r (List.replicate m r) ha
  rw [← List.replicate_succ] at hrun htwin
  rw [List.map_replicate] at hrun
  refine ⟨t, hrun, ?_⟩
  rw [hdeb, htwin, foldl_windowPush_replicate hn hwin, plurality_replicate hne]

end Sys2Proof.Machine
end

section
/-! The edge extractor (R104, R108): what one EDGE answers (R109), and what a run of equal ones answers. -/

namespace Sys2Proof.Machine

/-! ## One push -/

/-- In a session BIT runs the assembler (R118). -/
theorem exec_bit_live {s : State} (ha : s.active = true) (b : Bool) :
    exec (.bit b) s = .next (asmPush b s) := inSession_active s ha _

/-- EDGE at a clock that holds writes LAST_BIT_VALID only: PREV_CLOCK is written with its own value (R104). -/
theorem exec_edge_hold {s : State} {sig clk : Bool} (ha : s.active = true) (hc : clk = s.ses.prevClock) :
    exec (.edge sig clk) s = .next (s.setSes { s.ses with lastBitValid := false }) := by
  rw [exec_edge_live ha, edgeStage_hold s sig clk hc, hc]

/-- Settles O31: the two branches of R104, of which the second hands its bit to the assembler as BIT does. -/
theorem edgeLatchesOnAClockToggle : Obligations.EdgeLatchesOnAClockToggle := by
  intro s sig clk ha
  refine ⟨exec_edge_hold ha, fun hc => ⟨_, exec_edge_live ha sig clk, ?_⟩⟩
  rw [edgeStage_toggle s sig clk hc]
  exact exec_bit_live (by exact ha) sig

/-- The assembler leaves PREV_CLOCK (R111). -/
@[simp] theorem asmPush_prevClock (b : Bool) (s : State) : (asmPush b s).ses.prevClock = s.ses.prevClock := by
  obtain ⟨x, hx⟩ := asmPush_ses_frame b s
  rw [hx]

/-- The assembler leaves LAST_BIT_VALID (R111). -/
@[simp] theorem asmPush_lastBitValid (b : Bool) (s : State) :
    (asmPush b s).ses.lastBitValid = s.ses.lastBitValid := by
  obtain ⟨x, hx⟩ := asmPush_ses_frame b s
  rw [hx]

/-- Either branch of R104 leaves the pushed clock in PREV_CLOCK. -/
theorem edgeStage_prevClock (sig clk : Bool) (s : State) : (edgeStage sig clk s).ses.prevClock = clk := by
  by_cases hc : clk = s.ses.prevClock
  · rw [edgeStage_hold s sig clk hc, State.setSes_ses]
  · rw [edgeStage_toggle s sig clk hc, asmPush_prevClock, State.setSes_ses]

/-- LAST_BIT_VALID says afterwards whether the clock toggled (R104). -/
theorem edgeStage_lastBitValid_iff (sig clk : Bool) (s : State) :
    (edgeStage sig clk s).ses.lastBitValid = true ↔ clk ≠ s.ses.prevClock := by
  by_cases hc : clk = s.ses.prevClock
  · rw [edgeStage_hold s sig clk hc]
    simp [hc]
  · rw [edgeStage_toggle s sig clk hc]
    simp [hc]

/-! ## A run of pushes -/

/-- A run of EDGE at the clock that PREV_CLOCK holds writes what its first one does (R106). -/
theorem execAll_edge_hold (n : Nat) {s : State} {sig clk : Bool} (ha : s.active = true)
    (hc : clk = s.ses.prevClock) :
    execAll (List.replicate (n + 1) (.edge sig clk)) s = .next (s.setSes { s.ses with lastBitValid := false }) := by
  induction n generalizing s with
  | zero => exact execAll_cons_next (exec_edge_hold ha hc) []
  | succ n ih => exact (execAll_cons_next (exec_edge_hold ha hc) _).trans (ih ha hc)

/-- Settles O32: the first push leaves its clock in PREV_CLOCK, so the clock holds at every later one. -/
theorem repeatedEdgesEmitNothingMore : Obligations.RepeatedEdgesEmitNothingMore := by
  intro s sig clk n ha
  have hfirst := exec_edge_live ha sig clk
  have hactive : (edgeStage sig clk s).active = true := (edgeStage_active s sig clk).trans ha
  refine ⟨_, hfirst, edgeStage_lastBitValid_iff sig clk s, ?_⟩
  exact (execAll_cons_next hfirst _).trans
    (execAll_edge_hold n hactive (edgeStage_prevClock sig clk s).symm)

end Sys2Proof.Machine
end

section
/-! The byte assembler (R111 to R117): the byte of 8 bits, what one BIT answers, and what a run of BIT answers. -/

namespace Sys2Proof.Machine

/-! ## Eight bits as a byte -/

/-- A byte has room for the number of 8 bits (R112). -/
theorem convert_toNat {p : List Bool} (h : p.length = 8) : (convert p).toNat = bitsValue p :=
  toNat_ofNat_of_lt (h ▸ bitsValue_lt p)

/-- The first-received bit is the most significant (R112). -/
theorem convert_getLsbD {p : List Bool} (h : p.length = 8) {k : Nat} (hk : k < 8) :
    (convert p).getLsbD (7 - k) = p.getD k false := by
  rw [← BitVec.testBit_toNat, convert_toNat h, ← testBit_bitsValue p k (h ▸ hk), h]

/-- The accumulator form of R112, from any accumulator: the bits are shifted in below it. -/
theorem foldl_shiftIn (p : List Bool) (acc : Nat) :
    p.foldl (fun acc b => 2 * acc + b.toNat) acc = 2 ^ p.length * acc + bitsValue p := by
  induction p generalizing acc with
  | nil => simp [bitsValue]
  | cons b rest ih =>
    rw [List.foldl_cons, ih, bitsValue_cons, List.length_cons]
    ring

/-- Settles O29: both forms are the number of the bits, whose bits are the list's. -/
theorem convertIsMostSignificantFirst : Obligations.ConvertIsMostSignificantFirst := by
  intro p hp
  refine ⟨fun k hk => convert_getLsbD hp hk, ?_⟩
  rw [convert_toNat hp, foldl_shiftIn, Nat.mul_zero, Nat.zero_add]

/-! ## One push -/

/-- Settles O28: the two branches of R111, of which the second emits the byte of the bits received. -/
theorem bitAppendsOrCompletesTheByte : Obligations.BitAppendsOrCompletesTheByte := by
  intro s b ha
  rw [exec_bit_live ha]
  refine ⟨fun hshort => ?_, fun hfull => ⟨convert (s.ses.pend ++ [b]), fun k hk => ?_, ?_⟩⟩
  · rw [asmPush_short s b (by omega)]
    rfl
  · exact convert_getLsbD (by simp [hfull]) hk
  · rw [asmPush_full s b (by omega)]
    rfl

/-! ## A stream of bits -/

/-- The bytes that a stream of bits completes: its `n`-th is that of the bits from `8 * n` on (R114). -/
def completeBytes (bits : List Bool) : List Byte :=
  (List.range (bits.length / 8)).map fun n => convert ((bits.drop (8 * n)).take 8)

/-- The bits that a stream leaves pending: those after its last complete byte (R114). -/
def leftoverBits (bits : List Bool) : List Bool := bits.drop (8 * (bits.length / 8))

/-- Fewer than 8 bits complete no byte. -/
theorem completeBytes_of_short {bits : List Bool} (h : bits.length < 8) : completeBytes bits = [] := by
  simp [completeBytes, Nat.div_eq_of_lt h]

/-- Fewer than 8 bits are all left pending. -/
theorem leftoverBits_of_short {bits : List Bool} (h : bits.length < 8) : leftoverBits bits = bits := by
  simp [leftoverBits, Nat.div_eq_of_lt h]

/-- The number of complete bytes of a stream that begins with 8 bits. -/
theorem length_append_div_eight {p : List Bool} (h : p.length = 8) (bits : List Bool) :
    (p ++ bits).length / 8 = bits.length / 8 + 1 := by
  rw [List.length_append, h]
  omega

/-- Eight bits in front of a stream put their byte in front of its bytes. -/
theorem completeBytes_append {p : List Bool} (h : p.length = 8) (bits : List Bool) :
    completeBytes (p ++ bits) = convert p :: completeBytes bits := by
  have hdrop (n : Nat) : (p ++ bits).drop (8 * (n + 1)) = bits.drop (8 * n) := by
    rw [show 8 * (n + 1) = p.length + 8 * n by omega, List.drop_length_add_append]
  have hfirst : (p ++ bits).take 8 = p := List.take_left' h
  rw [completeBytes, length_append_div_eight h, List.range_succ_eq_map]
  simp [completeBytes, Function.comp_def, hdrop, hfirst]

/-- Eight bits in front of a stream leave no bit pending. -/
theorem leftoverBits_append {p : List Bool} (h : p.length = 8) (bits : List Bool) :
    leftoverBits (p ++ bits) = leftoverBits bits := by
  rw [leftoverBits, length_append_div_eight h,
    show 8 * (bits.length / 8 + 1) = p.length + 8 * (bits.length / 8) by omega, List.drop_length_add_append]
  rfl

/-- Bit `7 - k` of a complete byte is the bit of the stream at that place (R112, R114). -/
theorem completeBytes_getLsbD {bits : List Bool} {n k : Nat} (hn : n < bits.length / 8) (hk : k < 8) :
    ((completeBytes bits).getD n 0).getLsbD (7 - k) = bits.getD (8 * n + k) false := by
  have hbyte : (completeBytes bits).getD n 0 = convert ((bits.drop (8 * n)).take 8) := by
    simp [completeBytes, hn]
  have hlen : ((bits.drop (8 * n)).take 8).length = 8 := by
    rw [List.length_take, List.length_drop]
    omega
  rw [hbyte, convert_getLsbD hlen hk]
  simp [hk]

/-- In a session a run of BIT, behind the bits already pending, emits the complete bytes of the whole stream and
leaves its last bits pending (R111, R114). -/
theorem execAll_bit (bits : List Bool) {s : State} (ha : s.active = true) (hp : s.ses.pend.length < 8) :
    ∃ t, execAll (bits.map .bit) s = .next t ∧
      t.sink = s.sink ++ (completeBytes (s.ses.pend ++ bits)).map .byte ∧
      t.ses.pend = leftoverBits (s.ses.pend ++ bits) := by
  induction bits generalizing s with
  | nil =>
    rw [List.append_nil, completeBytes_of_short hp, leftoverBits_of_short hp]
    exact ⟨s, rfl, (List.append_nil _).symm, rfl⟩
  | cons b rest ih =>
    have hstream : s.ses.pend ++ b :: rest = (s.ses.pend ++ [b]) ++ rest := by simp
    rw [hstream, List.map_cons, execAll_cons_next (exec_bit_live ha b)]
    have ha' : (asmPush b s).active = true := (asmPush_active s b).trans ha
    obtain ⟨hfull, heq⟩ | ⟨hshort, heq⟩ := asmPush_cases s b
    · have hlen : (s.ses.pend ++ [b]).length = 8 := by simpa using hfull
      rw [completeBytes_append hlen, leftoverBits_append hlen]
      obtain ⟨t, hrun, hsink, hpend⟩ := ih ha' (by simp [heq])
      exact ⟨t, hrun, by simp [hsink, heq], by simp [hpend, heq]⟩
    · obtain ⟨t, hrun, hsink, hpend⟩ := ih ha' (by simp [heq]; omega)
      exact ⟨t, hrun, by simp [hsink, heq], by simp [hpend, heq]⟩

/-- Settles O30: from an empty buffer the stream is the bits of the run alone. -/
theorem bitStreamBecomesBytesInOrder : Obligations.BitStreamBecomesBytesInOrder := by
  intro bits s ha hp
  obtain ⟨t, hrun, hsink, hpend⟩ := execAll_bit bits ha (by simp [hp])
  rw [hp, List.nil_append] at hsink hpend
  have hlen : (completeBytes bits).length = bits.length / 8 := by simp [completeBytes]
  exact ⟨t, completeBytes bits, hrun, hsink, hlen,
    fun n k hn hk => completeBytes_getLsbD (hlen ▸ hn) hk, hpend⟩

end Sys2Proof.Machine
end

section
/-! The byte sink (R59 item 4, R115): what each operation appends to its history. -/

namespace Sys2Proof.Machine

/-- INJECT's stages emit at most a byte (R115, R122). -/
theorem pipeFromSmoother_sink (sv cv : Byte) (s : State) :
    (pipeFromSmoother sv cv s).sink = s.sink ∨ ∃ v, (pipeFromSmoother sv cv s).sink = s.sink ++ [.byte v] :=
  symbolStage_sink (smoothPush sv cv s) _

/-- What an operation can do to the sink's history: leave it, or in a session append a byte or END's EOS (R115). -/
theorem exec_sink_cases {i : Instr} {s t : State} (h : exec i s = .next t) :
    t.sink = s.sink ∨
    (s.active = true ∧ ∃ v, t.sink = s.sink ++ [.byte v]) ∨
    (s.active = true ∧ i = .endStream ∧ t.sink = s.sink ++ [.eos]) := by
  cases exec_effect h with
  | frame cs cc live =>
    exact (pipeFromSmoother_sink _ _ (storeSamples cs cc s)).imp_right fun hv => .inl ⟨live, hv⟩
  | inject sv cv live => exact (pipeFromSmoother_sink sv cv s).imp_right fun hv => .inl ⟨live, hv⟩
  | symbol r live => exact (symbolStage_sink s r).imp_right fun hv => .inl ⟨live, hv⟩
  | edge sig clk live => exact (edgeStage_sink s sig clk).imp_right fun hv => .inl ⟨live, hv⟩
  | bit b live => exact (asmPush_sink s b).imp_right fun hv => .inl ⟨live, hv⟩
  | endStream live => exact .inr (.inr ⟨live, rfl, rfl⟩)
  | _ => exact .inl (by simp)

/-- Settles O45: of the three cases only END's appends EOS, and the two that append are in a session. -/
theorem atMostOneEventPerOperation : Obligations.AtMostOneEventPerOperation := by
  intro i s t h
  obtain hsame | ⟨live, v, hbyte⟩ | ⟨live, rfl, heos⟩ := exec_sink_cases h
  · exact ⟨.inl hsame, fun _ => hsame, fun he => by simp [hsame] at he⟩
  · exact ⟨.inr ⟨_, hbyte⟩, fun hidle => by simp [live] at hidle, fun he => by simp [hbyte] at he⟩
  · exact ⟨.inr ⟨_, heos⟩, fun hidle => by simp [live] at hidle, fun _ => rfl⟩

end Sys2Proof.Machine
end

section
/-! The pipeline operations (R120 to R122): INJECT as two pushes and a SYMBOL, FRAME as two samples and an INJECT. -/

namespace Sys2Proof.Machine

/-! ## INJECT -/

/-- Settles O38: INJECT's state between its stages is the smoothers', from which SYMBOL runs the others. -/
theorem injectSmoothsClassifiesThenRunsSymbol : Obligations.InjectSmoothsClassifiesThenRunsSymbol := by
  intro s sv cv qs qc ha hqs hqc
  rw [← windowPush_eq_ite] at hqs hqc
  subst hqs hqc
  exact ⟨_, exec_inject_live ha sv cv, exec_symbol_live (s := smoothPush sv cv s) ha _⟩

/-! ## The truncated means of FRAME's draws -/

/-- A region that R76's words do not put outside the presented frame is valid, for either region id (R75, R76). -/
theorem regionValid_regionOf {s : State} (hsig : outsideFrame s.cfg.sigRegion (currentFrame s) = false)
    (hclk : outsideFrame s.cfg.clkRegion (currentFrame s) = false) (id : RegionId) :
    regionValid (regionOf s.cfg id) (currentFrame s) = true := by
  cases id with
  | sig => simp only [regionOf, regionValid_eq, hsig, Bool.not_false]
  | clk => simp only [regionOf, regionValid_eq, hclk, Bool.not_false]

/-- The mean of bytes is a byte (R78). -/
theorem meanOfDraws_lt {s : State} (hn : s.cfg.nsamples ≠ 0) (id : RegionId) (ch : Nat) :
    meanOfDraws s id ch < 2 ^ 8 := by
  have hpos : 0 < s.cfg.nsamples.toNat := Nat.pos_of_ne_zero fun h => hn (BitVec.eq_of_toNat_eq h)
  have hbytes : ∀ b ∈ (List.range s.cfg.nsamples.toNat).map (drawnByte s id ch), b ≤ 255 := by
    intro b hb
    obtain ⟨k, -, rfl⟩ := List.mem_map.mp hb
    exact Nat.le_of_lt_succ (BitVec.isLt _)
  have hsum := List.sum_le_card_nsmul _ _ hbytes
  rw [List.length_map, List.length_range, smul_eq_mul] at hsum
  exact Nat.lt_succ_of_le (Nat.div_le_of_le_mul hsum)

/-- The pixel of a region's truncated means (R78). -/
def drawsMean (s : State) (id : RegionId) : Pixel :=
  ⟨BitVec.ofNat 8 (meanOfDraws s id 0), BitVec.ofNat 8 (meanOfDraws s id 1), BitVec.ofNat 8 (meanOfDraws s id 2)⟩

/-- With at least one draw no lane of that pixel loses a bit (R78). -/
theorem isMeanOfDraws_drawsMean {s : State} (hn : s.cfg.nsamples ≠ 0) (id : RegionId) :
    isMeanOfDraws s id (drawsMean s id) :=
  ⟨toNat_ofNat_of_lt (meanOfDraws_lt hn id 0), toNat_ofNat_of_lt (meanOfDraws_lt hn id 1),
    toNat_ofNat_of_lt (meanOfDraws_lt hn id 2)⟩

/-- Sampling a valid region at admissible answers gives its truncated means (R78). -/
theorem sampleRegion_eq_drawsMean {s : State} {id : RegionId}
    (hv : regionValid (regionOf s.cfg id) (currentFrame s) = true) (ha : answersInside s) :
    sampleRegion s id = .ok (drawsMean s id) := by
  rw [sampleRegion, sample, sampleSums_inside hv _ fun k hk => drawAnswer_inside hv ha hk]
  rfl

/-- Settles O42: both regions are sampled as their means, and INJECT runs from the state that stores them. -/
theorem frameSamplesThenRunsInject : Obligations.FrameSamplesThenRunsInject := by
  intro s ha hn hsig hclk hin
  have hv := regionValid_regionOf hsig hclk
  have hframe := frameSampled_of_samples (sampleRegion_eq_drawsMean (hv .sig) hin)
    (sampleRegion_eq_drawsMean (hv .clk) hin)
  exact ⟨fun id k hk => drawAnswer_inside (hv id) hin hk, _, drawsMean s .sig, drawsMean s .clk,
    (execFrame_of_valid ha hsig hclk).trans hframe, isMeanOfDraws_drawsMean hn .sig,
    isMeanOfDraws_drawsMean hn .clk,
    exec_inject_live (s := storeSamples (drawsMean s .sig) (drawsMean s .clk) s) ha _ _⟩

end Sys2Proof.Machine
end

section
/-! What the injection operations depend on (R123): two runs of one script, stage by stage. -/

namespace Sys2Proof.Machine

/-! ## Two states that injection cannot tell apart -/

/-- The states agree on all that an injection reads: ACTIVE, the session, the thresholds and the lengths (R123). -/
structure SameInjectionInputs (s u : State) : Prop where
  active : s.active = u.active
  ses : s.ses = u.ses
  low : s.cfg.low = u.cfg.low
  high : s.cfg.high = u.cfg.high
  smoothLen : s.cfg.smoothLen = u.cfg.smoothLen
  debLen : s.cfg.debLen = u.cfg.debLen

/-- From `s` to `t` the sink got the events that it got from `u` to `v`, and `t` and `v` agree again (R123). -/
structure SameInjectionEffect (s u t v : State) : Prop where
  inputs : SameInjectionInputs t v
  events : ∃ events, t.sink = s.sink ++ events ∧ v.sink = u.sink ++ events

/-- Effects one after another append their events one after another. -/
theorem SameInjectionEffect.trans {s u t v t' v' : State} (h : SameInjectionEffect s u t v)
    (h' : SameInjectionEffect t v t' v') : SameInjectionEffect s u t' v' := by
  obtain ⟨e, ht, hv⟩ := h.events
  obtain ⟨e', ht', hv'⟩ := h'.events
  exact ⟨h'.inputs, e ++ e', by rw [ht', ht, List.append_assoc], by rw [hv', hv, List.append_assoc]⟩

section
variable {s u : State} (h : SameInjectionInputs s u)
include h

/-! ## Updates -/

/-- Doing nothing emits nothing. -/
theorem SameInjectionInputs.sameEffect : SameInjectionEffect s u s u :=
  ⟨h, [], (List.append_nil _).symm, (List.append_nil _).symm⟩

/-- The same session written in both states emits nothing. -/
theorem setSes_sameEffect (x : Session) : SameInjectionEffect s u (s.setSes x) (u.setSes x) :=
  ⟨{ h with ses := rfl }, [], (List.append_nil _).symm, (List.append_nil _).symm⟩

/-- The same event emitted in both states. -/
theorem emit_sameEffect (e : SinkEvent) : SameInjectionEffect s u (s.emit e) (u.emit e) :=
  ⟨{ h with }, [e], rfl, rfl⟩

/-- An error recorded in both states: the error fields are no input of an injection (R123, R132). -/
theorem raise_sameEffect (e : ErrorKind) : SameInjectionEffect s u (raise e s) (raise e u) :=
  ⟨{ h with }, [], (List.append_nil _).symm, (List.append_nil _).symm⟩

/-! ## Stages -/

/-- The assembler reads the pending bits only (R111). -/
theorem asmPush_sameEffect (b : Bool) : SameInjectionEffect s u (asmPush b s) (asmPush b u) := by
  obtain ⟨hfull, heq⟩ | ⟨hshort, heq⟩ := asmPush_cases s b
  · rw [heq, asmPush_full u b (h.ses ▸ hfull), h.ses]
    exact (setSes_sameEffect h _).trans (emit_sameEffect (setSes_sameEffect h _).inputs _)
  · rw [heq, asmPush_short u b (h.ses ▸ hshort), h.ses]
    exact setSes_sameEffect h _

/-- The extractor reads PREV_CLOCK only and hands its bit to the assembler (R104). -/
theorem edgeStage_sameEffect (sig clk : Bool) :
    SameInjectionEffect s u (edgeStage sig clk s) (edgeStage sig clk u) := by
  by_cases hc : clk = s.ses.prevClock
  · rw [edgeStage_hold s sig clk hc, edgeStage_hold u sig clk (h.ses ▸ hc), h.ses]
    exact setSes_sameEffect h _
  · rw [edgeStage_toggle s sig clk hc, edgeStage_toggle u sig clk (h.ses ▸ hc), h.ses]
    exact (setSes_sameEffect h _).trans (asmPush_sameEffect (setSes_sameEffect h _).inputs sig)

/-- The debouncer reads its window and DEB_LEN (R97). -/
theorem debouncePush_sameEffect (r : Symbol) :
    SameInjectionEffect s u (debouncePush r s) (debouncePush r u) := by
  rw [debouncePush, debouncePush, h.ses, h.debLen]
  exact setSes_sameEffect h _

/-- The stages from the debouncer on read nothing more than these two (R102). -/
theorem symbolStage_sameEffect (r : Symbol) :
    SameInjectionEffect s u (symbolStage r s) (symbolStage r u) := by
  have hpush := debouncePush_sameEffect h r
  rw [symbolStage, symbolStage, hpush.inputs.ses]
  exact hpush.trans (edgeStage_sameEffect hpush.inputs _ _)

/-- The smoothers read their windows and SMOOTH_LEN (R82). -/
theorem smoothPush_sameEffect (sv cv : Byte) :
    SameInjectionEffect s u (smoothPush sv cv s) (smoothPush sv cv u) := by
  rw [smoothPush, smoothPush, h.ses, h.smoothLen]
  exact setSes_sameEffect h _

/-- The classifier reads the smoothed values and the thresholds (R90). -/
theorem classified_eq_of_sameInputs : classified s = classified u := by
  rw [classified, classified, h.ses, h.low, h.high]

/-- The stages from the smoothers on read nothing more than these (R120). -/
theorem pipeFromSmoother_sameEffect (sv cv : Byte) :
    SameInjectionEffect s u (pipeFromSmoother sv cv s) (pipeFromSmoother sv cv u) := by
  have hpush := smoothPush_sameEffect h sv cv
  rw [pipeFromSmoother, pipeFromSmoother, classified_eq_of_sameInputs hpush.inputs]
  exact hpush.trans (symbolStage_sameEffect hpush.inputs _)

/-! ## Operations -/

/-- The session gate is open in both states, or records NOT_ACTIVE in both (R136). -/
theorem inSession_sameEffect {t v : State} (heff : SameInjectionEffect s u t v) :
    ∃ t' v', inSession s (.next t) = .next t' ∧ inSession u (.next v) = .next v' ∧
      SameInjectionEffect s u t' v' := by
  cases ha : s.active with
  | true => exact ⟨t, v, inSession_active s ha _, inSession_active u (h.active ▸ ha) _, heff⟩
  | false => exact ⟨_, _, inSession_idle s ha _, inSession_idle u (h.active ▸ ha) _, raise_sameEffect h _⟩

/-- Each injection operation answers a next state in both states, with the same effect (R123). -/
theorem exec_sameEffect {i : Instr} (hi : isInjection i = true) :
    ∃ t v, exec i s = .next t ∧ exec i u = .next v ∧ SameInjectionEffect s u t v := by
  cases i with
  | inject sv cv => exact inSession_sameEffect h (pipeFromSmoother_sameEffect h sv cv)
  | symbol r => exact inSession_sameEffect h (symbolStage_sameEffect h r)
  | edge sig clk => exact inSession_sameEffect h (edgeStage_sameEffect h sig clk)
  | bit b => exact inSession_sameEffect h (asmPush_sameEffect h b)
  | _ => simp [isInjection, Instr.opcode] at hi

end

/-- A script of injection operations answers a next state in both states, with the same effect (R123). -/
theorem execAll_sameEffect {is : List Instr} (his : ∀ i ∈ is, isInjection i = true) {s u : State}
    (h : SameInjectionInputs s u) :
    ∃ t v, execAll is s = .next t ∧ execAll is u = .next v ∧ SameInjectionEffect s u t v := by
  induction is generalizing s u with
  | nil => exact ⟨s, u, rfl, rfl, h.sameEffect⟩
  | cons i rest ih =>
    obtain ⟨hi, hrest⟩ := List.forall_mem_cons.mp his
    obtain ⟨s₁, u₁, hs, hu, hfirst⟩ := exec_sameEffect h hi
    obtain ⟨t, v, ht, hv, hthen⟩ := ih hrest hfirst.inputs
    exact ⟨t, v, (execAll_cons_next hs rest).trans ht, (execAll_cons_next hu rest).trans hv, hfirst.trans hthen⟩

/-- Settles O48: the six agreements are all that a script of injections reads. -/
theorem injectionDependsOnTheSessionAlone : Obligations.InjectionDependsOnTheSessionAlone := by
  intro is s u his hactive hses hlow hhigh hsmooth hdeb
  obtain ⟨t, v, ht, hv, heffect⟩ := execAll_sameEffect his ⟨hactive, hses, hlow, hhigh, hsmooth, hdeb⟩
  obtain ⟨events, htsink, hvsink⟩ := heffect.events
  exact ⟨t, v, events, ht, hv, heffect.inputs.ses, htsink, hvsink⟩

end Sys2Proof.Machine
end

section
/-! What the control operations do: NOP, CLRERR, END and STOP (R125, R127, R128, R130), and what the read port shows
after a CFGWR (R129 with R32 to R36). -/

namespace Sys2Proof.Machine

/-! ## NOP, CLRERR, END and STOP -/

/-- Settles O17: NOP answers the state it is given. -/
theorem nopChangesNothing : Obligations.NopChangesNothing := fun _ => rfl

/-- Settles O16: CLRERR has no gate, and writes ERR without the masked flags. -/
theorem clrerrClearsTheSelectedFlags : Obligations.ClrerrClearsTheSelectedFlags := fun mask s =>
  ⟨clearErrorFlags s.err mask, rfl, clearErrorFlags_getLsbD s.err mask⟩

/-- Settles O19: in a session END closes the session, then emits EOS. -/
theorem endDropsThePartialByteAndEmitsEos : Obligations.EndDropsThePartialByteAndEmitsEos := fun s ha =>
  inSession_active s ha (.next ((closeSession s).emit .eos))

/-- Settles O20: in a session STOP closes the session. -/
theorem stopDropsThePartialByteSilently : Obligations.StopDropsThePartialByteSilently := fun s ha =>
  inSession_active s ha (.next (closeSession s))

/-! ## CFGWR: operands read back as register values -/

/-- Two neighbouring fields of an operand, put back at their places, are the operand where all its bits above them
are 0. -/
theorem placeField_neighbours {data : Half} (k n : Nat) (hrest : data.extractLsb' (k + n) (16 - (k + n)) = 0) :
    placeField k (data.extractLsb' k n) ||| placeField 0 (data.extractLsb' 0 k) = data.setWidth 32 := by
  have habove (i : Nat) (hi : k + n ≤ i) : data.getLsbD i = false := by
    by_cases h16 : i < 16
    · have hbit := congrArg (fun x => x.getLsbD (i - (k + n))) hrest
      simpa [show i - (k + n) < 16 - (k + n) by omega, Nat.add_sub_cancel' hi] using hbit
    · exact BitVec.getLsbD_of_ge data i (Nat.le_of_not_lt h16)
  ext i hi
  by_cases hlow : i < k
  · simp [hlow, hlow.not_ge]
  · by_cases hmid : i < k + n
    · simp [not_lt.mp hlow, show i - k < n by omega]
    · simp [hlow, show ¬ i - k < n by omega, habove i (not_lt.mp hmid)]

/-- A coordinate or a number of draws is shown as it is (R32, R36). -/
theorem placeField_zero (data : Half) : placeField 0 data = data.setWidth 32 := by
  simp [placeField]

/-- The channel of a legal index has that index (R33, R52). -/
theorem channel_code_of_ofCode {c : BitVec 2} {ch : Channel} (h : Channel.ofCode c = some ch) : ch.code = c := by
  revert h c
  cases ch <;> decide

/-- CHAN's legal operand is what CHAN shows of the channels it selects (R33). -/
theorem chanOperand_shown {data : Half} {sig clk : Channel} (h : chanOperand data = some (sig, clk)) :
    placeField 2 clk.code ||| placeField 0 sig.code = data.setWidth 32 := by
  unfold chanOperand at h
  split at h
  · cases h
  next hrest =>
    split at h
    next hsig hclk =>
      cases h
      rw [channel_code_of_ofCode hsig, channel_code_of_ofCode hclk]
      exact placeField_neighbours 2 2 (not_not.mp hrest)
    next => cases h

/-- THRESH's operand is what THRESH shows of the thresholds it selects (R34). -/
theorem threshOperand_shown (data : Half) :
    placeField 8 (threshOperand data).2 ||| placeField 0 (threshOperand data).1 = data.setWidth 32 :=
  placeField_neighbours 8 8 BitVec.of_length_zero

/-- LENS's legal operand is what LENS shows of the lengths it selects (R35). -/
theorem lensOperand_shown {data : Half} {smooth deb : BitVec 4} (h : lensOperand data = some (smooth, deb)) :
    placeField 4 deb ||| placeField 0 smooth = data.setWidth 32 := by
  unfold lensOperand at h
  split at h
  · cases h
  next hlegal =>
    push Not at hlegal
    obtain ⟨hrest, -, -⟩ := hlegal
    cases h
    exact placeField_neighbours 4 4 hrest

/-- NSAMPLES's legal operand is the number of draws (R36). -/
theorem nsamplesOperand_eq {data n : Half} (h : nsamplesOperand data = some n) : n = data := by
  unfold nsamplesOperand at h
  split at h <;> grind

/-! ## CFGWR: the registers after a write -/

/-- The index of a configuration register is one of twelve (R31). -/
theorem exists_configIndex {j : BitVec 5} (hj : j.toNat < 12) : ∃ k : Fin 12, j = BitVec.ofNat 5 k :=
  ⟨⟨j.toNat, hj⟩, by simp⟩

section
variable (s : State) {j : BitVec 5} (hj : j.toNat < 12)
include hj

/-- A coordinate shows in its own register (R32). -/
theorem readReg_writeCoordinate {n : Nat} (hn : n < 8) (data : Half) :
    readReg (s.setCfg (writeCoordinate s.cfg n data)) j =
      if j.toNat = n then coordinateReg data else readReg s j := by
  obtain ⟨k, rfl⟩ := exists_configIndex hj
  interval_cases n <;> fin_cases k <;> rfl

/-- The channels show in CHAN (R33). -/
theorem readReg_setChannels (sig clk : Channel) :
    readReg (s.setCfg { s.cfg with sigCh := sig, clkCh := clk }) j =
      if j.toNat = 0x8 then placeField 2 clk.code ||| placeField 0 sig.code else readReg s j := by
  obtain ⟨k, rfl⟩ := exists_configIndex hj
  fin_cases k <;> rfl

/-- The thresholds show in THRESH (R34). -/
theorem readReg_setThresholds (low high : Byte) :
    readReg (s.setCfg { s.cfg with low := low, high := high }) j =
      if j.toNat = 0x9 then placeField 8 high ||| placeField 0 low else readReg s j := by
  obtain ⟨k, rfl⟩ := exists_configIndex hj
  fin_cases k <;> rfl

/-- The lengths show in LENS (R35). -/
theorem readReg_setLengths (smooth deb : BitVec 4) :
    readReg (s.setCfg { s.cfg with smoothLen := smooth, debLen := deb }) j =
      if j.toNat = 0xA then placeField 4 deb ||| placeField 0 smooth else readReg s j := by
  obtain ⟨k, rfl⟩ := exists_configIndex hj
  fin_cases k <;> rfl

/-- The number of draws shows in NSAMPLES (R36). -/
theorem readReg_setNsamples (n : Half) :
    readReg (s.setCfg { s.cfg with nsamples := n }) j =
      if j.toNat = 0xB then placeField 0 n else readReg s j := by
  obtain ⟨k, rfl⟩ := exists_configIndex hj
  fin_cases k <;> rfl

/-- After a configuration write the named register shows the operand, and the others what they showed (R129). -/
theorem readReg_configWrite {active : Bool} {idx : BitVec 4} {data : Half} {c : Configuration}
    (h : configWrite active s.cfg idx data = .ok c) :
    readReg (s.setCfg c) j = if j.toNat = idx.toNat then data.setWidth 32 else readReg s j := by
  unfold configWrite at h
  split at h
  case h_1 hidx =>
    cases ho : chanOperand data with
    | none => simp [ho] at h
    | some p =>
      simp only [ho, Except.ok.injEq] at h
      rw [← h, readReg_setChannels s hj, chanOperand_shown ho, hidx]
  case h_2 hidx =>
    cases h
    rw [readReg_setThresholds s hj, threshOperand_shown, hidx]
  case h_3 hidx =>
    cases active with
    | true => simp at h
    | false =>
      cases ho : lensOperand data with
      | none => simp [ho] at h
      | some p =>
        simp only [ho, Bool.false_eq_true, if_false, Except.ok.injEq] at h
        rw [← h, readReg_setLengths s hj, lensOperand_shown ho, hidx]
  case h_4 hidx =>
    cases ho : nsamplesOperand data with
    | none => simp [ho] at h
    | some n =>
      simp only [ho, Except.ok.injEq] at h
      rw [← h, readReg_setNsamples s hj, nsamplesOperand_eq ho, placeField_zero, hidx]
  case h_5 =>
    split at h
    next hlt =>
      cases h
      rw [readReg_writeCoordinate s hj hlt, coordinateReg, placeField_zero]
    next => cases h

end

/-- A CFGWR of a legal register and value that is not locked stores a configuration (R129, R139). -/
theorem exec_cfgwr_stores {s : State} {idx : BitVec 4} {data : Half} (hidx : idx.toNat < 12)
    (hlegal : illegalValue idx data = false) (hfree : idx.toNat = 0xA → s.active = false) :
    ∃ c, configWrite s.active s.cfg idx data = .ok c ∧ exec (.cfgwr idx data) s = .next (s.setCfg c) := by
  have hnone : expectedError (.cfgwr idx data) s = none := by
    have hunlocked : ¬ (idx.toNat = 0xA ∧ s.active = true) := by
      rintro ⟨hlens, hactive⟩
      cases hactive.symm.trans (hfree hlens)
    rw [expectedError_cfgwr (decide_eq_true hidx), if_neg hunlocked, if_neg (by simp [hlegal])]
  obtain hstored | ⟨e, he, -⟩ := execCfgwr_cases idx data s
  · exact hstored
  · cases hnone.symm.trans (expectedError_of_configWrite_error he)

/-- Settles O21: no error applies, so the configuration is stored, and the read port shows it. -/
theorem cfgwrStoresTheNamedRegister : Obligations.CfgwrStoresTheNamedRegister := by
  intro s idx data hidx hlegal hfree
  obtain ⟨c, hc, hx⟩ := exec_cfgwr_stores hidx hlegal hfree
  exact ⟨c, hx, fun j hj => readReg_configWrite s hj hc⟩

end Sys2Proof.Machine
end

section
/-! What every operation but FRAME depends on (R126, R151, R159): two runs of one list, operation by operation. -/

namespace Sys2Proof.Machine

/-! ## Session control -/

section
variable {s u : State} (h : SameInjectionInputs s u)
include h

/-- The same ACTIVE written in both states emits nothing. -/
theorem setActive_sameEffect (b : Bool) : SameInjectionEffect s u (s.setActive b) (u.setActive b) :=
  ⟨{ h with active := rfl }, [], (List.append_nil _).symm, (List.append_nil _).symm⟩

/-- END and STOP drop the pending bits of the same session and close it (R127, R128). -/
theorem closeSession_sameEffect : SameInjectionEffect s u (closeSession s) (closeSession u) := by
  have hdrop := setSes_sameEffect h { u.ses with pend := [] }
  rw [closeSession, closeSession, h.ses]
  exact hdrop.trans (setActive_sameEffect hdrop.inputs false)

/-- DERIV's stage reads its unit only (R96). -/
theorem derivStage_sameEffect (unit : DerivUnit) (v : Byte) :
    SameInjectionEffect s u (derivStage unit v s) (derivStage unit v u) := by
  cases unit with
  | d0 | d1 =>
    rw [derivStage, derivStage, h.ses]
    exact setSes_sameEffect h _

end

/-! ## Two states that no operation but FRAME can tell apart -/

/-- The states agree on all that an operation but FRAME reads: ACTIVE, the session, the configuration and the
SRC_AVAILABLE level. -/
structure SameOperationInputs (s u : State) : Prop extends SameInjectionInputs s u where
  cfg : s.cfg = u.cfg
  source : s.srcAvailable = u.srcAvailable

section
variable {s u : State} (h : SameOperationInputs s u)
include h

/-- START opens the same session in both states, or records SOURCE_UNAVAILABLE in both (R126). -/
theorem execStart_sameEffect :
    ∃ t v, execStart s = .next t ∧ execStart u = .next v ∧ SameInjectionEffect s u t v := by
  cases hs : s.srcAvailable with
  | true =>
    have hinit := setSes_sameEffect h.toSameInjectionInputs Session.initial
    exact ⟨_, _, if_pos hs, if_pos (h.source ▸ hs), hinit.trans (setActive_sameEffect hinit.inputs true)⟩
  | false =>
    have hu : u.srcAvailable = false := h.source ▸ hs
    exact ⟨_, _, by simp [execStart, hs], by simp [execStart, hu],
      raise_sameEffect h.toSameInjectionInputs .sourceUnavailable⟩

/-- CFGWR stores the same configuration in both states, or records the same error in both (R129). -/
theorem execCfgwr_sameEffect (idx : BitVec 4) (data : Half) :
    ∃ t v, execCfgwr idx data s = .next t ∧ execCfgwr idx data u = .next v ∧ SameInjectionEffect s u t v ∧
      t.cfg = v.cfg := by
  unfold execCfgwr
  rw [← h.active, ← h.cfg]
  cases configWrite s.active s.cfg idx data with
  | ok c =>
    exact ⟨_, _, rfl, rfl, ⟨⟨h.active, h.ses, rfl, rfl, rfl, rfl⟩, h.sameEffect.events⟩, rfl⟩
  | error e => exact ⟨_, _, rfl, rfl, raise_sameEffect h.toSameInjectionInputs e, h.cfg⟩

/-- Each operation but FRAME answers a next state in both states, with the same effect (R159). -/
theorem exec_sameEffect_of_ne_frame {i : Instr} (hi : i ≠ .frame) :
    ∃ t v, exec i s = .next t ∧ exec i u = .next v ∧ SameInjectionEffect s u t v := by
  have hin := h.toSameInjectionInputs
  have hclose := closeSession_sameEffect hin
  cases i with
  | frame => exact absurd rfl hi
  | inject | symbol | edge | bit => exact exec_sameEffect hin rfl
  | nop => exact ⟨s, u, rfl, rfl, hin.sameEffect⟩
  | start => exact execStart_sameEffect h
  | endStream => exact inSession_sameEffect hin (hclose.trans (emit_sameEffect hclose.inputs .eos))
  | stop => exact inSession_sameEffect hin hclose
  | deriv unit v => exact inSession_sameEffect hin (derivStage_sameEffect hin unit v)
  | cfgwr idx data =>
    obtain ⟨t, v, ht, hv, heffect, -⟩ := execCfgwr_sameEffect h idx data
    exact ⟨t, v, ht, hv, heffect⟩
  | clrerr mask => exact ⟨_, _, rfl, rfl, { hin with }, hin.sameEffect.events⟩

/-- An operation leaves the configuration the same in both states: CFGWR alone writes it, and from the
configuration and ACTIVE alone (R15, R129). -/
theorem exec_sameCfg {i : Instr} {t v : State} (ht : exec i s = .next t) (hv : exec i u = .next v) :
    t.cfg = v.cfg := by
  cases i with
  | cfgwr idx data =>
    obtain ⟨t', v', ht', hv', -, hcfg⟩ := execCfgwr_sameEffect h idx data
    cases ht'.symm.trans ht
    cases hv'.symm.trans hv
    exact hcfg
  | _ =>
    calc t.cfg = s.cfg := configurationWrittenOnlyByCfgwr _ _ _ ht (by simp)
      _ = u.cfg := h.cfg
      _ = v.cfg := (configurationWrittenOnlyByCfgwr _ _ _ hv (by simp)).symm

/-- Operations keep the agreement: the configuration stays the same in both, and none drives SRC_AVAILABLE. -/
theorem exec_keeps_sameOperationInputs {i : Instr} {t v : State} (ht : exec i s = .next t)
    (hv : exec i u = .next v) (heffect : SameInjectionEffect s u t v) : SameOperationInputs t v := by
  obtain ⟨-, htsource, -⟩ := operationsLeaveTheirInputs i s t ht
  obtain ⟨-, hvsource, -⟩ := operationsLeaveTheirInputs i u v hv
  exact ⟨heffect.inputs, exec_sameCfg h ht hv, htsource.trans (h.source.trans hvsource.symm)⟩

end

/-- A list of operations without FRAME answers a next state in both states, with the same effect (R159). -/
theorem execAll_sameOperationInputs {is : List Instr} (his : Instr.frame ∉ is) {s u : State}
    (h : SameOperationInputs s u) :
    ∃ t v, execAll is s = .next t ∧ execAll is u = .next v ∧ SameInjectionEffect s u t v ∧ t.cfg = v.cfg := by
  induction is generalizing s u with
  | nil => exact ⟨s, u, rfl, rfl, h.sameEffect, h.cfg⟩
  | cons i rest ih =>
    obtain ⟨hi, hrest⟩ := not_or.mp (mt List.mem_cons.mpr his)
    obtain ⟨s₁, u₁, hs, hu, hfirst⟩ := exec_sameEffect_of_ne_frame h (Ne.symm hi)
    obtain ⟨t, v, ht, hv, hthen, hcfg⟩ := ih hrest (exec_keeps_sameOperationInputs h hs hu hfirst)
    exact ⟨t, v, (execAll_cons_next hs rest).trans ht, (execAll_cons_next hu rest).trans hv, hfirst.trans hthen,
      hcfg⟩

/-- After START two states with one configuration agree, whatever their sessions were (R126, R151). -/
theorem startSession_sameOperationInputs {s u : State} (hcfg : s.cfg = u.cfg)
    (hsource : s.srcAvailable = u.srcAvailable) :
    SameOperationInputs ((sessionInit s).setActive true) ((sessionInit u).setActive true) where
  active := rfl
  ses := rfl
  low := congrArg Configuration.low hcfg
  high := congrArg Configuration.high hcfg
  smoothLen := congrArg Configuration.smoothLen hcfg
  debLen := congrArg Configuration.debLen hcfg
  cfg := hcfg
  source := hsource

/-- Settles O49: START makes the two states agree, and no other operation but FRAME reads anything more. -/
theorem restartForgetsThePast : Obligations.RestartForgetsThePast := by
  intro is s u his hcfg hs hu
  have hagree := startSession_sameOperationInputs hcfg (hs.trans hu.symm)
  obtain ⟨t, v, ht, hv, heffect, hcfg'⟩ := execAll_sameOperationInputs his hagree
  obtain ⟨events, htsink, hvsink⟩ := heffect.events
  exact ⟨t, v, events, (execAll_cons_next (startInitialisesTheSession s hs) is).trans ht,
    (execAll_cons_next (startInitialisesTheSession u hu) is).trans hv, heffect.inputs.ses, heffect.inputs.active,
    hcfg', htsink, hvsink⟩

end Sys2Proof.Machine
end

section
/-! A step with no operation on the port: idle (R149), or a change of SRC_AVAILABLE (R134). -/

namespace Sys2Proof.Machine

/-- With nothing on the port a step answers the state it is given (R149). -/
theorem step_of_no_input {s : State} (hp : s.port = []) : step s = .next s := by
  simp [step, runPort, hp]

/-- A change of SRC_AVAILABLE is taken off the port and drives the input (R134). -/
theorem step_of_source {s : State} {b : Bool} {rest : List PortEvent} (hp : s.port = .source b :: rest) :
    step s = .next (sourceChange b s) := by
  simp [step, runPort, hp]

/-- What a change of SRC_AVAILABLE writes: the input, and the port without its front (R134). -/
theorem sourceChange_eq (b : Bool) (s : State) :
    sourceChange b s = { s with srcAvailable := b, port := s.port.tail } := rfl

/-- Settles O10: such a step runs no operation, so only the input and the port can change. -/
theorem stepWithoutAnOperation : Obligations.StepWithoutAnOperation := fun s =>
  ⟨step_of_no_input, fun b rest hp => by rw [step_of_source hp, sourceChange_eq, hp, List.tail_cons]⟩

end Sys2Proof.Machine
end

section
/-! The error that an operation raises (R131, R132, R136, R139): what each kind of operation answers where R139's order
gives an error. -/

namespace Sys2Proof.Machine

/-! ## Recording an error -/

/-- What recording an error writes, by its code (R131, R132). -/
theorem raise_eq (e : ErrorKind) (s : State) :
    raise e s = { s with
      err := s.err ||| (1#6 <<< ((errorCode e).toNat - 1))
      errInfo := BitVec.ofNat 4 (errorCode e).toNat
      errWord := (presented s).word } := by
  cases e <;> rfl

/-! ## The operations that need a session -/

/-- Outside a session every operation that needs one raises NOT_ACTIVE (R136). -/
theorem exec_idle {i : Instr} {s : State} (hn : needsSession i = true) (ha : s.active = false) :
    exec i s = .next (raise .notActive s) := by
  cases i
  case nop | start | cfgwr | clrerr => cases hn
  all_goals exact inSession_idle s ha _

/-- In a session FRAME is the only operation that needs one and can still raise an error (R139). -/
theorem expectedError_live {i : Instr} {s : State} (hn : needsSession i = true) (hf : i ≠ .frame)
    (ha : s.active = true) : expectedError i s = none := by
  cases i
  case nop | start | cfgwr | clrerr => cases hn
  case frame => exact absurd rfl hf
  all_goals simp [expectedError, Instr.wellFormed, ha]

/-! ## CFGWR -/

/-- No error is expected of a CFGWR that names a legal register, is not locked and has a legal value (R139). -/
theorem expectedError_cfgwr_legal {s : State} {idx : BitVec 4} {data : Half} (hi : legalIndex idx = true)
    (hfree : ¬ (idx.toNat = 0xA ∧ s.active = true)) (hv : illegalValue idx data ≠ true) :
    expectedError (.cfgwr idx data) s = none := by
  rw [expectedError_cfgwr hi, if_neg hfree, if_neg hv]

/-- No error is expected of a CFGWR that stores a configuration (R129). -/
theorem expectedError_of_configWrite_ok {s : State} {idx : BitVec 4} {data : Half} {c : Configuration}
    (h : configWrite s.active s.cfg idx data = .ok c) : expectedError (.cfgwr idx data) s = none := by
  unfold configWrite at h
  split at h
  next hidx =>
    obtain rfl : idx = 0x8 := BitVec.eq_of_toNat_eq hidx
    refine expectedError_cfgwr_legal rfl (by simp) (mt (chanOperand_none data).mpr fun ho => ?_)
    simp [ho] at h
  next hidx =>
    obtain rfl : idx = 0x9 := BitVec.eq_of_toNat_eq hidx
    exact expectedError_cfgwr_legal rfl (by simp) (by simp [illegalValue])
  next hidx =>
    obtain rfl : idx = 0xA := BitVec.eq_of_toNat_eq hidx
    refine expectedError_cfgwr_legal rfl (fun ⟨_, ha⟩ => ?_) (mt (lensOperand_none data).mpr fun ho => ?_)
    · simp [ha] at h
    · cases ha : s.active <;> simp [ha, ho] at h
  next hidx =>
    obtain rfl : idx = 0xB := BitVec.eq_of_toNat_eq hidx
    refine expectedError_cfgwr_legal rfl (by simp) (mt (nsamplesOperand_none data).mpr fun ho => ?_)
    simp [ho] at h
  next h8 h9 hA hB =>
    split at h
    next hlt =>
      have hi : legalIndex idx = true := decide_eq_true (by omega)
      exact expectedError_cfgwr_legal hi (fun ⟨hlens, _⟩ => hA hlens) (by simp [illegalValue])
    next => cases h

/-! ## The error raised -/

/-- `i` raises, in `s`, the error with code `c`. -/
def Raises (i : Instr) (s : State) (c : Nat) : Prop :=
  ∃ e, c = (errorCode e).toNat ∧ exec i s = .next (raise e s)

/-- An operation that records the error expected of it raises every error expected of it: there is only one. -/
theorem raises_of_exec {i : Instr} {s : State} {c : Nat} {e : ErrorKind} (h : expectedError i s = some c)
    (he : expectedError i s = some (errorCode e).toNat) (hx : exec i s = .next (raise e s)) : Raises i s c :=
  ⟨e, Option.some.inj (h.symm.trans he), hx⟩

/-- START raises SOURCE_UNAVAILABLE where no source is available (R126). -/
theorem start_raises {s : State} {c : Nat} (h : expectedError .start s = some c) : Raises .start s c := by
  have hcode : expectedError .start s =
      if s.srcAvailable = false then some (errorCode .sourceUnavailable).toNat else none := rfl
  cases hs : s.srcAvailable with
  | true => simp [hcode, hs] at h
  | false =>
    exact raises_of_exec (e := .sourceUnavailable) h (by simp [hcode, hs]) (by simp [exec, execStart, hs])

/-- In a session FRAME raises INVALID_REGION where the frame does not fit one of the regions (R121). -/
theorem frame_raises {s : State} {c : Nat} (ha : s.active = true) (h : expectedError .frame s = some c) :
    Raises .frame s c := by
  obtain ⟨ho, hx⟩ | ⟨hsig, hclk, -⟩ := execFrame_cases s ha
  · exact raises_of_exec h (expectedError_frame ha ho) hx
  · simp [expectedError, Instr.wellFormed, ha, hsig, hclk] at h

/-- CFGWR raises the error that its tests give, in the order of R139 (R129). -/
theorem cfgwr_raises {s : State} {idx : BitVec 4} {data : Half} {c : Nat}
    (h : expectedError (.cfgwr idx data) s = some c) : Raises (.cfgwr idx data) s c := by
  obtain ⟨cfg, hok, -⟩ | ⟨e, he, hx⟩ := execCfgwr_cases idx data s
  · simp [expectedError_of_configWrite_ok hok] at h
  · exact raises_of_exec h (expectedError_of_configWrite_error he) hx

/-- An operation that needs a session raises NOT_ACTIVE outside one, and inside one only FRAME's error (R136, R139). -/
theorem gated_raises {i : Instr} {s : State} {c : Nat} (hw : i.wellFormed = true) (hn : needsSession i = true)
    (h : expectedError i s = some c) : Raises i s c := by
  cases ha : s.active with
  | false => exact raises_of_exec h (expectedError_idle hw hn ha) (exec_idle hn ha)
  | true =>
    by_cases hf : i = .frame
    · subst hf
      exact frame_raises ha h
    · simp [expectedError_live hn hf ha] at h

/-- Every operation raises the error expected of it. -/
theorem exec_raises {i : Instr} {s : State} {c : Nat} (h : expectedError i s = some c) : Raises i s c := by
  cases i with
  | nop => cases h
  | clrerr => cases h
  | start => exact start_raises h
  | cfgwr => exact cfgwr_raises h
  | frame | endStream | stop | inject | symbol | edge | bit | deriv => exact gated_raises rfl rfl h

/-- Settles O14: the operation raises the expected error, and that writes the error fields alone. -/
theorem errorsArePreciseAndPrioritised : Obligations.ErrorsArePreciseAndPrioritised := by
  intro i s c h
  obtain ⟨e, rfl, hx⟩ := exec_raises h
  rw [hx, raise_eq]

end Sys2Proof.Machine
end

section
/-! How far the windows lag behind a step of their input (R160, R161): runs of one value pushed into a window full of
another. -/

namespace Sys2Proof.Machine

/-! ## The window -/

/-- After `k` pushes of `b` a window full of `a` holds what is left of the `a`s, then the `b`s (R82, R97). -/
theorem foldl_windowPush_step {α : Type} (len k : Nat) (a b : α) :
    (List.replicate k b).foldl (windowPush len) (List.replicate len a) =
      List.replicate (len - k) a ++ List.replicate (min k len) b := by
  rw [foldl_windowPush_eq_drop len _ _ (List.length_replicate).le, List.length_replicate, List.length_replicate,
    Nat.add_sub_cancel_left, List.drop_append, List.drop_replicate, List.drop_replicate, List.length_replicate,
    Nat.sub_sub_eq_min]

/-! ## The smoothers -/

/-- The smoothed value of a run of `a` followed by a run of `b` (R83). -/
theorem smoothed_two_runs (m n : Nat) (a b : Byte) :
    smoothed (List.replicate m a ++ List.replicate n b) = ⟨m * a.toNat + n * b.toNat, m + n⟩ := by
  simp [smoothed, windowSum]

/-- The smoothed value of a window full of `a` after at most as many pushes of `b` as it is long (R161). -/
theorem smoothed_foldl_windowPush_step {len k : Nat} (hk : k ≤ len) (a b : Byte) :
    smoothed ((List.replicate k b).foldl (windowPush len) (List.replicate len a)) =
      ⟨(len - k) * a.toNat + k * b.toNat, len⟩ := by
  rw [foldl_windowPush_step, min_eq_left hk, smoothed_two_runs, Nat.sub_add_cancel hk]

/-- Settles O40: each value of the run is pushed into its own window. -/
theorem smootherStepLag : Obligations.SmootherStepLag := by
  intro s a b c d k ha hk
  obtain ⟨t, hrun, hqs, hqc⟩ := execAll_inject_windows (List.replicate k (b, d)) ha
  rw [List.map_replicate] at hrun hqs hqc
  refine ⟨t, hrun, fun hfull => ?_, fun hfull => ?_⟩
  · rw [hqs, hfull, smoothed_foldl_windowPush_step hk]
  · rw [hqc, hfull, smoothed_foldl_windowPush_step hk]

/-! ## The debouncer -/

/-- How often a symbol stands in two runs. -/
theorem count_two_runs (m n : Nat) (a b j : Symbol) :
    (List.replicate m a ++ List.replicate n b).count j = (if a = j then m else 0) + if b = j then n else 0 := by
  simp [List.count_replicate]

/-- Of two runs the later wins unless it is the shorter: on a tie nothing occurs after it (R98). -/
theorem plurality_two_runs_later {m n : Nat} {a b : Symbol} (hab : a ≠ b) (hn : n ≠ 0) (hmn : m ≤ n) :
    plurality (List.replicate m a ++ List.replicate n b) = b := by
  obtain ⟨p, rfl⟩ := Nat.exists_eq_succ_of_ne_zero hn
  rw [List.replicate_succ', ← List.append_assoc]
  refine plurality_concat fun j => ?_
  rw [List.append_assoc, ← List.replicate_succ', count_two_runs, count_two_runs, if_neg hab, if_pos rfl]
  by_cases hj : a = j
  · rw [if_pos hj, if_neg (hj ▸ hab.symm)]
    omega
  · rw [if_neg hj]
    split <;> omega

/-- Of two runs the earlier wins if it is the longer (R98). -/
theorem plurality_two_runs_earlier {m n : Nat} {a b : Symbol} (hab : a ≠ b) (hmn : n < m) :
    plurality (List.replicate m a ++ List.replicate n b) = a := by
  have hcount := (plurality_max (List.replicate m a ++ List.replicate n b) a).1
  rw [count_two_runs, count_two_runs, if_pos rfl, if_neg hab.symm] at hcount
  by_contra hne
  rw [if_neg (Ne.symm hne)] at hcount
  split at hcount <;> omega

/-- Settles O36: the `b`s are as many as the `a`s left in the window from half its length on. -/
theorem debouncerDelayIsHalfTheWindow : Obligations.DebouncerDelayIsHalfTheWindow := by
  intro s a b k ha hlen hab hwin hk
  have hne : s.cfg.debLen.toNat ≠ 0 := fun h => hlen (BitVec.eq_of_toNat_eq h)
  obtain ⟨m, rfl⟩ : ∃ m, k = m + 1 := Nat.exists_eq_succ_of_ne_zero hk.ne'
  obtain ⟨t, hrun, htwin, hdeb⟩ := execAll_symbol_window b (List.replicate m b) ha
  rw [← List.replicate_succ] at hrun htwin
  rw [List.map_replicate] at hrun
  refine ⟨t, hrun, ?_⟩
  rw [hdeb, htwin, hwin, foldl_windowPush_step]
  split
  next hlate => exact plurality_two_runs_later hab (by omega) (by omega)
  next hearly => exact plurality_two_runs_earlier hab (by omega)

end Sys2Proof.Machine
end
